-- ==== Sys2Proof/Word.lean ====
section
/-! DEFINITION. The word types of the Jotrik 2408 model. -/

namespace Sys2Proof

/-- A byte of a frame, a record, a page or a request slot. -/
abbrev Byte := BitVec 8

/-- An oscillator count, and any 64-bit counter that wraps (R17, R21). -/
abbrev Count := BitVec 64

/-- An address of host memory. -/
abbrev Address := BitVec 64

/-- A port number, P0 to P7. -/
abbrev PortNo := Fin 8

/-- A lane number, L0 to L3. -/
abbrev LaneNo := Fin 4

/-- A channel number, 0 to 255. -/
abbrev ChannelNo := Fin 256

end Sys2Proof
end

