-- ==== Sys2Proof/Syntax.lean ====
section
/-! DEFINITION. The commands: one constructor of Instr per row of spec/opcode_table.json, with the
operands the event brings from outside. A request's parameters are not operands: they stand in the copy of the
slot that the Request Engine holds (R157, R172, R173). -/

namespace Sys2Proof

/-- The link state a receiver reports (R2). -/
inductive LinkState where
  | down
  | up
  deriving DecidableEq, Repr

/-- An edge on the PPS input, and the polarity setting that names the active one (3.2). -/
inductive EdgeKind where
  | rising
  | falling
  deriving DecidableEq, Repr

/-- How far through its oscillator cycle an event came, as the fraction num / den (R5). -/
structure CycleFraction where
  num : Nat
  den : Nat
  deriving DecidableEq, Repr

/-- A write access to AREA_BASE (R151). -/
inductive AreaWrite where
  | whole (value : BitVec 64)
  | lowerHalf (value : BitVec 32)
  | upperHalf (value : BitVec 32)
  deriving DecidableEq, Repr

/-- The steps of the part, in the order of spec/opcode_table.json. -/
inductive Instr where
  | coldReset
  | functionReset
  | oscillatorCycleEnd
  | linkChange (port : PortNo) (link : LinkState)
  | frameFirstByte (port : PortNo) (within : CycleFraction)
  | endOfFrame (port : PortNo) (bytes : List Byte)
  | errorWindowEnd (port : PortNo)
  | classifyFrame (port : PortNo)
  | tableTakeFrame (port : PortNo)
  | expiry
  | ppsEdge (edge : EdgeKind) (within : CycleFraction)
  | edgeProcess
  | disciplineCorrection
  | edgeComplete
  | holdoverExpiry
  | setTime
  | adjustTime
  | setFrequency
  | disciplineSet
  | portSet
  | portReadmit
  | mapAdd
  | mapRemove
  | patternLoad
  | channelSet
  | channelStart
  | channelStop
  | laneOpen
  | pageListReadDone (read : Nat) (bytes : List Byte)
  | laneClose
  | closeDrainEnd (lane : LaneNo)
  | partitionSet
  | countersSnapshot
  | counterCopy
  | badRequest
  | scanTimer
  | nudge
  | slotReadDone (read : Nat) (bytes : List Byte)
  | requestComplete
  | areaBaseWrite (access : AreaWrite)
  | setEnables (value : BitVec 32)
  | causeRead
  | ignoredRegisterWrite (offset : BitVec 32) (value : BitVec 32)
  | statusRefresh
  | readFailure (read : Nat)
  | readLimitExpiry (read : Nat)
  | offerRecord (position : Nat)
  | ownerWordReadDone (read : Nat) (word : BitVec 32)
  | starvedReread (lane : LaneNo)
  | writeRecord (lane : LaneNo)
  | lingerExpiry (lane : LaneNo)
  | holdoffExpiry (lane : LaneNo)
  deriving DecidableEq, Repr

end Sys2Proof
end

