-- ==== Sys2Proof/Config.lean ====
section
/-! DEFINITION. What the 2408 fixes: the sizes, periods and limits that the spec's rules state as numbers.
The spec leaves no value undefined, so there is no free value here. -/

namespace Sys2Proof.Config

/-- One second in sub-units of 2^-32 ns: 10^9 × 2^32 (2.1). -/
def oneSecond : Nat := 4294967296000000000

/-- One nanosecond in sub-units (2.1). -/
def oneNanosecond : Nat := 4294967296

/-- One thirty-second of a nanosecond in sub-units: 2^27 (2.1). -/
def oneThirtySecond : Nat := 134217728

/-- Half a second in sub-units, the limit of the pending slew (R25). -/
def halfSecond : Nat := 2147483648000000000

/-- The nominal increment, 2.5 ns × 2^32 (R23). -/
def nominalIncrement : Nat := 10737418240

/-- The limit of the frequency adjustment, ppb (R25). -/
def freqLimit : Nat := 200000

/-- Oscillator cycles in a microsecond (R21). -/
def cyclesPerMicrosecond : Nat := 400

/-- The length of a port's error window, cycles (R12). -/
def errorWindow : Nat := 400000000

/-- The capacity of a handoff queue (R10). -/
def handoffRoom : Nat := 16

/-- The largest port or channel snap length, bytes (R18, R84). -/
def snapLimit : Nat := 1536

/-- The window in which an edge is accepted while ACQUIRING or LOCKED, cycles after the last one (R40). -/
def edgeEarliest : Nat := 399600000
def edgeLatest : Nat := 400400000

/-- The holdover limit, cycles (R41). -/
def holdoverLimit : Nat := 800000000

/-- The size of the shared pool of pairing entries (R90, R121). -/
def poolSize : Nat := 4096

/-- The blocks of the Staging Buffer, their size, and the smallest dedicated allotment (R129). -/
def stagingBlocks : Nat := 4096
def blockBytes : Nat := 64
def smallestAllotment : Nat := 26

/-- The period of the starved re-read, cycles (R139). -/
def rereadPeriod : Nat := 8000

/-- The scan period and the Status Block refresh period, cycles (R155, R160). -/
def scanPeriod : Nat := 40000
def refreshPeriod : Nat := 400000

/-- The limit of a host-memory read, and the age that marks a slow one, cycles (R161, R160). -/
def readLimit : Nat := 4000000
def slowReadAge : Nat := 400000

/-- IDENT: part 2408h, revision 0101h (R150, R176). -/
def ident : BitVec 32 := 0x24080101

/-- The counters of the part (R159). -/
def counterCount : Nat := 3467

end Sys2Proof.Config
end

