-- ==== Sys2Proof/Machine/State.lean ====
section
/-! DEFINITION. The state of the part: plain data holding every register, latch, queue, timer, table and counter
the spec names, with the values each has after a cold reset. -/

namespace Sys2Proof.Machine

/-! ### Time -/

/-- The discipline state, which is also the quality every time carries (R48). -/
inductive Quality where
  | free
  | acquiring
  | locked
  | holdover
  deriving DecidableEq, Repr

/-- A capture stamp: the oscillator count and the phase, in sixteenths of the cycle (R4, R5). -/
structure Stamp where
  n : Count
  p : BitVec 4
  deriving DecidableEq, Repr

/-- A timebase snapshot (R4). The increment is a signed exact number of sub-units. -/
structure Snapshot where
  sec : BitVec 32
  sub : Nat
  increment : Int
  epoch : BitVec 16
  quality : Quality
  deriving DecidableEq, Repr

/-- What a capture latch takes at one instant (R4, R39). -/
structure Capture where
  stamp : Stamp
  snap : Snapshot
  deriving DecidableEq, Repr

/-- A record time: seconds, nanoseconds and thirty-seconds (00 Record time). -/
structure RecordTime where
  sec : BitVec 32
  ns : Nat
  th : Nat
  deriving DecidableEq, Repr

/-- A record time with the epoch and quality it travels with (R24, R63). -/
structure DatedTime where
  time : RecordTime
  epoch : BitVec 16
  quality : Quality
  deriving DecidableEq, Repr

/-- The cause of a step (R28). -/
inductive StepCause where
  | set
  | adjust
  | discipline
  deriving DecidableEq, Repr

/-- The Timebase; its S is the slew rate that governs the running cycle (2.1, R25, R27). -/
structure Timebase where
  sec : BitVec 32
  sub : Nat
  freq : Int
  slew : Int
  slewRate : Nat
  epoch : BitVec 16
  deriving DecidableEq, Repr

/-! ### Settings -/

/-- The unmapped and bad-frame policies of a port (R18). -/
inductive CapturePolicy where
  | ignore
  | capture
  deriving DecidableEq, Repr

/-- The drive level of a lit lamp (R16, R49). -/
inductive Polarity where
  | activeHigh
  | activeLow
  deriving DecidableEq, Repr

/-- The port settings that a frame carries from its first byte (R6). -/
structure FrameSettings where
  delay : Nat
  noticeLane : Option LaneNo
  unmapped : CapturePolicy
  badFrame : CapturePolicy
  snap : Nat
  deriving DecidableEq, Repr

/-- All settings of a port but its enable (R18). -/
structure PortSettings where
  frame : FrameSettings
  threshold : Nat
  fence : Bool
  lampPolarity : Polarity
  deriving DecidableEq, Repr

/-- The six adoption settings of the discipline (R51). -/
structure Adoption where
  ppsDelay : Nat
  stepThreshold : Nat
  slewRate : Nat
  backwardSlew : Bool
  gain : Nat
  lockThreshold : Nat
  deriving DecidableEq, Repr

/-- The line of a frame: A is 0 and B is 1 in records (00 Terms). -/
inductive Line where
  | a
  | b
  deriving DecidableEq, Repr

/-- The mode of a channel (R84, R109). -/
inductive Mode where
  | paired
  | single
  deriving DecidableEq, Repr

/-- The reject policy of a channel (R81, R106). -/
inductive RejectPolicy where
  | drop
  | capture
  deriving DecidableEq, Repr

/-- The byte order of a locator (R80). -/
inductive ByteOrder where
  | big
  | little
  deriving DecidableEq, Repr

/-- Where a payload holds a number (R80). -/
structure Locator where
  offset : Nat
  width : Nat
  order : ByteOrder
  deriving DecidableEq, Repr

/-- The marker of a channel: a slice of the pool and the payload offset it must stand at (R79, R84). -/
structure Marker where
  index : Nat
  length : Nat
  offset : Nat
  deriving DecidableEq, Repr

/-- The settings of a channel (R84). -/
structure ChannelSettings where
  mode : Mode
  lane : LaneNo
  snap : Nat
  sequence : Locator
  msgCount : Option Locator
  marker : Marker
  partnerWindow : Nat
  gapWindow : Nat
  resyncLimit : Nat
  entryCap : Nat
  reject : RejectPolicy
  deriving DecidableEq, Repr

/-! ### Ports -/

/-- The health of a port (R13, R14). -/
inductive Health where
  | normal
  | degraded
  | fenced
  deriving DecidableEq, Repr

/-- The frame in reception: its capture and the settings it carries (R4, R6). -/
structure Latch where
  capture : Capture
  settings : FrameSettings
  deriving DecidableEq, Repr

/-- A checked frame in a handoff queue (R10). Its length is the length of its bytes, the FCS included. -/
structure Frame where
  port : PortNo
  bytes : List Byte
  capture : Capture
  settings : FrameSettings
  deriving DecidableEq, Repr

/-- One receive port (1.1). -/
structure Port where
  enabled : Bool
  link : LinkState
  health : Health
  settings : PortSettings
  windowStart : Option Count
  windowCount : Nat
  latch : Option Latch
  queue : List Frame
  deriving DecidableEq, Repr

/-! ### Classifier and channels -/

/-- A map key: the IPv4 destination address, first byte most significant, and the UDP destination port (R70, R71). -/
structure Key where
  address : BitVec 32
  udpPort : BitVec 16
  deriving DecidableEq, Repr

/-- An entry of an address map; its index is its place in the map (R71). -/
structure MapEntry where
  key : Key
  channel : ChannelNo
  line : Line
  deriving DecidableEq, Repr

/-- A port's address map: an entry or none at each of its 64 indices (R71). -/
abbrev AddressMap := Vector (Option MapEntry) 64

/-- A channel: its record in the channel table (R78) and the NextSeq that the Arbitration Table holds (R89). -/
structure Channel where
  on : Bool
  run : BitVec 32
  settings : ChannelSettings
  nextSeq : Option Nat
  deriving DecidableEq, Repr

/-- A classified frame (R82). -/
structure Classified where
  port : PortNo
  channel : ChannelNo
  line : Line
  run : BitVec 32
  s : Nat
  c : Nat
  frameLength : Nat
  captured : List Byte
  capture : Capture
  delay : Nat
  deriving DecidableEq, Repr

/-! ### Pairing entries -/

/-- What an AWAIT entry keeps of its winner (R90). -/
structure Winner where
  line : Line
  port : PortNo
  stamp : Stamp
  delay : Nat
  time : DatedTime
  deriving DecidableEq, Repr

/-- What a GAP entry keeps of the frame that revealed it (R90). -/
structure Opened where
  port : PortNo
  time : DatedTime
  deriving DecidableEq, Repr

/-- The kind of an entry with the fields of that kind (R90). -/
inductive EntryKind where
  | await (winner : Winner)
  | gap (opened : Opened)
  deriving DecidableEq, Repr

/-- A pairing entry (R90). -/
structure Entry where
  channel : ChannelNo
  kind : EntryKind
  first : Nat
  count : Nat
  deadline : Count
  order : BitVec 32
  deriving DecidableEq, Repr

/-- Why an entry left: at its expiry, or flagged EVICTED or FLUSHED (R118, R119). -/
inductive Removal where
  | expired
  | evicted
  | flushed
  deriving DecidableEq, Repr

/-! ### Records -/

/-- The flags of an ARRIVAL record (R166). -/
structure ArrivalFlags where
  published : Bool := false
  fill : Bool := false
  isPartial : Bool := false
  duplicate : Bool := false
  stale : Bool := false
  heartbeat : Bool := false
  resync : Bool := false
  unmapped : Bool := false
  foreign : Bool := false
  badFcs : Bool := false
  truncated : Bool := false
  timeClamped : Bool := false
  deriving DecidableEq, Repr

/-- The reason of an ARRIVAL record (R166). -/
inductive Reason where
  | none
  | notUdp
  | noMap
  | channelOff
  | marker
  | short
  deriving DecidableEq, Repr

/-- The fields of an ARRIVAL record; the captured length is the length of the captured bytes (R11, R165). -/
structure ArrivalRecord where
  channel : Option ChannelNo
  port : PortNo
  line : Option Line
  flags : ArrivalFlags
  time : DatedTime
  reason : Reason
  frameLength : Nat
  captured : List Byte
  msgCount : Nat
  first : Nat
  pubFirst : Nat
  pubCount : Nat
  stamp : Stamp
  deriving DecidableEq, Repr

/-- The fields of a PARTNER record (R102). -/
structure PartnerRecord where
  channel : ChannelNo
  port : PortNo
  line : Line
  misaligned : Bool
  inverted : Bool
  time : DatedTime
  first : Nat
  count : Nat
  lead : Int
  winnerPort : PortNo
  deriving DecidableEq, Repr

/-- The fields of a GAP record (R118). -/
structure GapRecord where
  channel : ChannelNo
  port : PortNo
  removal : Removal
  time : DatedTime
  first : Nat
  count : Nat
  reached : Bool
  held : Nat
  deriving DecidableEq, Repr

/-- The fields of a LINE_MISS record (R119). -/
structure LineMissRecord where
  channel : ChannelNo
  port : PortNo
  line : Line
  removal : Removal
  time : DatedTime
  first : Nat
  count : Nat
  reached : Bool
  held : Nat
  deriving DecidableEq, Repr

/-- The direction of a resync (R98). -/
inductive Direction where
  | ahead
  | behind
  deriving DecidableEq, Repr

/-- The fields of a RESYNC record (R98). -/
structure ResyncRecord where
  channel : ChannelNo
  port : PortNo
  line : Line
  time : DatedTime
  oldNext : Nat
  newNext : Nat
  direction : Direction
  flushed : Nat
  deriving DecidableEq, Repr

/-- A drop time: seconds and nanoseconds with their epoch (R133). -/
structure DropTime where
  sec : BitVec 32
  ns : Nat
  epoch : BitVec 16
  deriving DecidableEq, Repr

/-- The fields of a DROPPED record (R134). -/
structure DroppedRecord where
  dropped : Nat
  arrivals : Nat
  first : DropTime
  last : DropTime
  time : DatedTime
  deriving DecidableEq, Repr

/-- The fields of a STEP record; the new time and the new epoch are those of its record time (R29, R168). -/
structure StepRecord where
  cause : StepCause
  oldSec : BitVec 32
  oldNs : Nat
  offset : Int
  time : DatedTime
  deriving DecidableEq, Repr

/-- The fields of a PORT record (R15). -/
structure PortRecord where
  port : PortNo
  link : LinkState
  health : Health
  windowCount : Nat
  time : DatedTime
  deriving DecidableEq, Repr

/-- The event of a TIME record (R47). -/
inductive TimeEvent where
  | edge
  | holdover
  | disabled
  deriving DecidableEq, Repr

/-- The fields of a TIME record; R is in nanoseconds, rounded (R47). -/
structure TimeRecord where
  event : TimeEvent
  state : Quality
  stepped : Bool
  held : Bool
  setAside : Bool
  error : Int
  freq : Int
  slewNs : Int
  time : DatedTime
  deriving DecidableEq, Repr

/-- The nine kinds of record (R164). -/
inductive Record where
  | arrival (r : ArrivalRecord)
  | partner (r : PartnerRecord)
  | gap (r : GapRecord)
  | lineMiss (r : LineMissRecord)
  | resync (r : ResyncRecord)
  | dropped (r : DroppedRecord)
  | step (r : StepRecord)
  | port (r : PortRecord)
  | time (r : TimeRecord)
  deriving DecidableEq, Repr

/-- What tells a frame the Table takes from every other, as its records carry it: its port and capture stamp, and the
lane of its channel (R110). -/
structure FrameTag where
  port : PortNo
  stamp : Stamp
  lane : LaneNo
  deriving DecidableEq, Repr

/-- The block that offers a record, with what its order and its no-lane counter depend on (R131). A Table record
names its channel and the frame that caused it, none for an expiry or a CHANNEL_STOP (R110, R122). -/
inductive Source where
  | port (k : PortNo)
  | classifier (k : PortNo) (ch : ChannelNo)
  | table (ch : ChannelNo) (frame : Option FrameTag)
  | timebase
  | discipline
  deriving DecidableEq, Repr

/-- A record offered to a lane and not yet taken by the Staging Buffer (R131). -/
structure Offer where
  lane : LaneNo
  source : Source
  record : Record
  deriving DecidableEq, Repr

/-! ### Reference discipline -/

/-- The correction the unit hands to the Timebase (R30, R43, R44): a step of so many thirty-seconds, a frequency
change with a new slew in sub-units, or, when the correction is held, a frequency change alone. -/
inductive Correction where
  | step (offset : Int)
  | slew (deltaF : Int) (newSlew : Int)
  | held (deltaF : Int)
  deriving DecidableEq, Repr

/-- What the unit measured at an edge: E in thirty-seconds and the composed time (R42). -/
structure Measured where
  error : Int
  time : DatedTime
  deriving DecidableEq, Repr

/-- How far the processing of an edge has come: captured and accepted; its correction handed to the Timebase; the
Timebase's answer, with the F and R just after it (R42 to R47). -/
inductive EdgeStage where
  | captured
  | handed (m : Measured) (correction : Correction)
  | answered (m : Measured) (correction : Correction) (applied : Bool) (freq : Int) (slew : Int)
  deriving DecidableEq, Repr

/-- An accepted edge in flight, with the settings in force after its qualification (R39, R51, R52). -/
structure Edge where
  capture : Capture
  settings : Adoption
  stage : EdgeStage
  deriving DecidableEq, Repr

/-- The Reference Discipline Unit (3.1). -/
structure Discipline where
  enabled : Bool
  polarity : EdgeKind
  lane : Option LaneNo
  lampPolarity : Polarity
  active : Adoption
  pending : Option Adoption
  state : Quality
  good : Nat
  lastAccepted : Option Count
  timer : Bool
  lastError : Int
  latch : Option Edge
  waiting : List Edge
  deriving DecidableEq, Repr

/-! ### Staging and lanes -/

/-- A lane's drop tally (R129, R133). -/
structure Tally where
  dropped : Nat
  arrivals : Nat
  first : Option DropTime
  last : Option DropTime
  deriving DecidableEq, Repr

/-- What the Staging Buffer holds for a lane (R129); the holding is computed from the FIFO. -/
structure StagingLane where
  allotment : Nat
  cap : Nat
  fifo : List Record
  tally : Tally
  dropTotal : BitVec 32
  deriving DecidableEq, Repr

/-- The state of a lane (R136). -/
inductive LaneState where
  | closed
  | opened
  | starved
  | closing
  | halted
  deriving DecidableEq, Repr

/-- The page a lane writes (R136, R138). -/
structure CurrentPage where
  address : Address
  used : Nat
  records : Nat
  firstSerial : BitVec 32
  deriving DecidableEq, Repr

/-- A LANE_OPEN whose page list is being read (R137). -/
structure Opening where
  count : Nat
  exponent : Nat
  linger : Nat
  holdoff : Nat
  batch : Nat
  deriving DecidableEq, Repr

/-- A Lane Writer (R136). A timer is stopped, or runs to the oscillator count given. -/
structure Lane where
  state : LaneState
  pages : List Address
  exponent : Nat
  nextPage : Nat
  current : Option CurrentPage
  serial : BitVec 32
  pageSerial : BitVec 32
  closedPages : BitVec 32
  linger : Nat
  holdoff : Nat
  batch : Nat
  lingerAt : Option Count
  holdoffAt : Option Count
  rereadAt : Option Count
  pendingCloses : Nat
  opening : Option Opening
  closeWritten : Nat
  deriving DecidableEq, Repr

/-! ### Request Engine and Bus Interface -/

/-- The outcomes of a request (R158). -/
inductive ReqOutcome where
  | ok
  | adjusted
  | busy
  | badRequest
  | badParam
  | mapFull
  | conflict
  | notFound
  | loss
  | faulted
  deriving DecidableEq, Repr

/-- The outcome and the result (slot bytes 48 to 63) that an owner returns (R157). -/
structure Answer where
  outcome : ReqOutcome
  result : List Byte
  deriving DecidableEq, Repr

/-- The state of the Request Engine (9.4). -/
inductive EngineState where
  | stopped
  | idle
  | busy
  deriving DecidableEq, Repr

/-- A scan in progress: the slot being read and how many slots are left, that one included (R156). -/
structure Scan where
  slot : Fin 8
  left : Nat
  deriving DecidableEq, Repr

/-- The Request Engine (9.4). The owning block of the request in flight is named by its code. -/
structure Engine where
  state : EngineState
  scan : Option Scan
  lastSlot : Fin 8
  copy : Option (List Byte)
  handed : Option (List Byte)
  answer : Option Answer
  lastEnd : Option ReqOutcome
  deriving DecidableEq, Repr

/-- What a host-memory read is for (R161). -/
inductive ReadPurpose where
  | slotState
  | slotWhole
  | pageList (lane : LaneNo)
  | ownerWord (lane : LaneNo)
  deriving DecidableEq, Repr

/-- A host-memory read outstanding. It is no longer wanted when its scan has ended or its lane has discarded
(R145, R151); its failure is a read failure all the same. -/
structure ReadOp where
  tag : Nat
  purpose : ReadPurpose
  address : Address
  length : Nat
  issued : Count
  wanted : Bool
  deriving DecidableEq, Repr

/-- A contiguous run of bytes of one host-memory write. -/
structure Run where
  address : Address
  bytes : List Byte
  deriving DecidableEq, Repr

/-- What the Bus Interface puts out: host-memory reads and writes, the interrupt message, and the value that a
read of CAUSE returns (R140, R153, R154). -/
inductive BusEvent where
  | read (tag : Nat) (address : Address) (length : Nat)
  | write (runs : List Run)
  | message (address : BitVec 64) (data : BitVec 32)
  | reply (value : BitVec 32)
  deriving DecidableEq, Repr

/-- A counter snapshot in progress: the buffer, the clear option, the next counter and the reading taken at the
start (R159). -/
structure SnapshotCopy where
  buffer : Address
  clear : Bool
  next : Nat
  reading : DatedTime
  deriving DecidableEq, Repr

/-- The endpoint's message capability, which the host sets (R154). -/
structure MessageCapability where
  sending : Bool
  address : BitVec 64
  data : BitVec 32
  deriving DecidableEq, Repr

/-- The eight cause bits (R153). -/
inductive CauseBit where
  | lane (l : LaneNo)
  | request
  | time
  | port
  | fault
  deriving DecidableEq, Repr

/-- The Bus Interface (9.1 to 9.8). -/
structure BusInterface where
  areaBase : BitVec 64
  heldLower : Option (BitVec 32)
  notify : Bool
  enables : BitVec 8
  cause : BitVec 8
  faultAddr : Address
  faulted : Bool
  refreshCount : BitVec 32
  slowRead : Bool
  reads : List ReadOp
  nextTag : Nat
  snapshot : Option SnapshotCopy
  scanTaken : Bool
  refreshTaken : Bool
  message : MessageCapability
  log : List BusEvent
  deriving DecidableEq, Repr

/-! ### Counters -/

/-- The counters of a port, in the row order of R17. -/
inductive PortCounter where
  | passed
  | runts
  | giants
  | fcsErrors
  | fencedDiscards
  | overruns
  | aborted
  | badCaptured
  | noticeNoLane
  deriving DecidableEq, Repr

/-- The Classifier's counters of a port, in the row order of R87. -/
inductive ClassifierPortCounter where
  | notUdp
  | noMap
  | channelOff
  deriving DecidableEq, Repr

/-- The counters of the Timebase, in the order of R175. -/
inductive TimebaseCounter where
  | setSteps
  | adjustSteps
  | disciplineSteps
  | stepNoLane
  deriving DecidableEq, Repr

/-- The counters of the Reference Discipline Unit, in the row order of R54. -/
inductive DisciplineCounter where
  | accepted
  | irregular
  | held
  | setAside
  | holdovers
  | timeNoLane
  deriving DecidableEq, Repr

/-- The Classifier's counters of a channel, in the row order of R87. -/
inductive ClassifierChannelCounter where
  | classified
  | foreignMarker
  | foreignShort
  | stopDiscards
  | noLane
  deriving DecidableEq, Repr

/-- The Table's counters of a channel, in the row order of R113. -/
inductive TableCounter where
  | published
  | partners
  | duplicates
  | stale
  | resyncs
  deriving DecidableEq, Repr

/-- The Expiry Queue's counters of a channel, in the row order of R127. -/
inductive ExpiryCounter where
  | gaps
  | lineMisses
  | evictions
  deriving DecidableEq, Repr

/-- The counters of a lane, in the row order of R147. -/
inductive LaneCounter where
  | written
  | droppedWritten
  | recordsDropped
  | fullCloses
  | lingerCloses
  | flushCloses
  | starvations
  | closeDiscards
  deriving DecidableEq, Repr

/-- The 3,467 counters, block by block (R159, R175). -/
structure Counters where
  ports : Vector (Vector Count 9) 8
  classifierPorts : Vector (Vector Count 3) 8
  timebase : Vector Count 4
  discipline : Vector Count 6
  classifierChannels : Vector (Vector Count 5) 256
  table : Vector (Vector Count 5) 256
  expiry : Vector (Vector Count 3) 256
  poolFull : Count
  lanes : Vector (Vector Count 8) 4
  deriving DecidableEq, Repr

/-- The name of a counter. -/
inductive Counter where
  | port (k : PortNo) (c : PortCounter)
  | classifierPort (k : PortNo) (c : ClassifierPortCounter)
  | timebase (c : TimebaseCounter)
  | discipline (c : DisciplineCounter)
  | classifierChannel (ch : ChannelNo) (c : ClassifierChannelCounter)
  | table (ch : ChannelNo) (c : TableCounter)
  | expiry (ch : ChannelNo) (c : ExpiryCounter)
  | poolFull
  | lane (l : LaneNo) (c : LaneCounter)
  deriving DecidableEq, Repr

/-! ### The whole state -/

/-- The part, and the queue of commands waiting, first in first out. -/
structure State where
  pending : List Instr
  count : Count
  timebase : Timebase
  discipline : Discipline
  ports : Vector Port 8
  maps : Vector AddressMap 8
  patterns : Vector Byte 256
  channels : Vector Channel 256
  waiting : Vector (Option Classified) 8
  input : Vector (Option Classified) 8
  entries : List Entry
  nextOrder : BitVec 32
  offers : List Offer
  staging : Vector StagingLane 4
  lanes : Vector Lane 4
  engine : Engine
  bus : BusInterface
  counters : Counters
  deriving DecidableEq, Repr

/-- A step of this machine never faults: the spec gives every command an effect, and a failed host-memory read is
state, not a stop (R161, R162). -/
inductive Fault where
  deriving DecidableEq, Repr

/-- The refusals. -/
inductive Refusal where
  /-- Raised by exec for a row that has no meaning yet; no arm raises it. Safe: nothing is said of the state. -/
  | notModelled (mnemonic : String)
  deriving DecidableEq, Repr

/-! ### Reset values -/

/-- The adoption settings at their defaults (R50). -/
def Adoption.reset : Adoption :=
  { ppsDelay := 0, stepThreshold := 1000000, slewRate := 50, backwardSlew := true, gain := 4, lockThreshold := 100 }

/-- The Reference Discipline Unit after a cold reset (R55). -/
def Discipline.reset : Discipline :=
  { enabled := false, polarity := .rising, lane := none, lampPolarity := .activeHigh, active := .reset,
    pending := none, state := .free, good := 0, lastAccepted := none, timer := false, lastError := 0,
    latch := none, waiting := [] }

/-- The settings of a port after either reset (R1). -/
def PortSettings.reset : PortSettings :=
  { frame := { delay := 0, noticeLane := none, unmapped := .ignore, badFrame := .ignore, snap := 64 },
    threshold := 0, fence := false, lampPolarity := .activeHigh }

/-- A port after either reset, with the link state it then holds (R1). -/
def Port.reset (link : LinkState) : Port :=
  { enabled := false, link := link, health := .normal, settings := .reset, windowStart := none, windowCount := 0,
    latch := none, queue := [] }

/-- The settings of a channel after either reset (R84). -/
def ChannelSettings.reset : ChannelSettings :=
  { mode := .paired, lane := 0, snap := 128, sequence := { offset := 0, width := 4, order := .big },
    msgCount := none, marker := { index := 0, length := 0, offset := 0 }, partnerWindow := 1000, gapWindow := 2000,
    resyncLimit := 65536, entryCap := 256, reject := .drop }

/-- A channel after either reset (R88, R89). -/
def Channel.reset : Channel := { on := false, run := 0, settings := .reset, nextSeq := none }

/-- The empty tally (R129). -/
def Tally.empty : Tally := { dropped := 0, arrivals := 0, first := none, last := none }

/-- A lane's part of the Staging Buffer after either reset (R129). -/
def StagingLane.reset : StagingLane :=
  { allotment := 512, cap := 2048, fifo := [], tally := .empty, dropTotal := 0 }

/-- A Lane Writer after either reset (R136). R136 gives the page size no value: 12 is a DESIGN CHOICE (log 8). -/
def Lane.reset : Lane :=
  { state := .closed, pages := [], exponent := 12, nextPage := 0, current := none, serial := 0, pageSerial := 0,
    closedPages := 0, linger := 200, holdoff := 50, batch := 8, lingerAt := none, holdoffAt := none,
    rereadAt := none, pendingCloses := 0, opening := none, closeWritten := 0 }

/-- The Request Engine after either reset (R156, R163). -/
def Engine.reset : Engine :=
  { state := .stopped, scan := none, lastSlot := 7, copy := none, handed := none, answer := none, lastEnd := none }

/-- The Bus Interface after a cold reset (R150, R160, R163). The message capability's values are a DESIGN CHOICE
(log 9): the host sets it, and the spec gives it no reset value. -/
def BusInterface.reset : BusInterface :=
  { areaBase := 0, heldLower := none, notify := false, enables := 0, cause := 0, faultAddr := 0, faulted := false,
    refreshCount := 0, slowRead := false, reads := [], nextTag := 0, snapshot := none, scanTaken := false,
    refreshTaken := false, message := { sending := true, address := 0, data := 0 }, log := [] }

/-- Every counter at 0 (R1, R37, R55, R88, R114, R128, R136). -/
def Counters.reset : Counters :=
  { ports := .replicate 8 (.replicate 9 0), classifierPorts := .replicate 8 (.replicate 3 0),
    timebase := .replicate 4 0, discipline := .replicate 6 0,
    classifierChannels := .replicate 256 (.replicate 5 0), table := .replicate 256 (.replicate 5 0),
    expiry := .replicate 256 (.replicate 3 0), poolFull := 0, lanes := .replicate 4 (.replicate 8 0) }

/-- The part right after a cold reset, with no command waiting (R1, R37, R55, R88, R114, R128, R149, R163). -/
def State.reset : State :=
  { pending := [], count := 0, timebase := { sec := 0, sub := 0, freq := 0, slew := 0, slewRate := 50, epoch := 0 },
    discipline := .reset, ports := .replicate 8 (.reset .down), maps := .replicate 8 (.replicate 64 none),
    patterns := .replicate 256 0, channels := .replicate 256 .reset, waiting := .replicate 8 none,
    input := .replicate 8 none, entries := [], nextOrder := 0, offers := [], staging := .replicate 4 .reset,
    lanes := .replicate 4 .reset, engine := .reset, bus := .reset, counters := .reset }

end Sys2Proof.Machine
end

