-- ==== Sys2Proof/Machine/Arithmetic.lean ====
section
/-! DEFINITION. The Composition Unit: record time from a capture, and lead (R57 to R66). It holds no state. -/

namespace Sys2Proof.Machine

/-- What a composition returns: the record time, whether it was clamped at zero, and the unclamped subsecond value
q in thirty-seconds (R57). -/
structure Composed where
  time : RecordTime
  clamped : Bool
  q : Nat
  deriving DecidableEq, Repr

/-- The phase term: p × I / 16 sub-units, rounded down (R58). -/
def phaseTerm (c : Capture) : Int := (c.stamp.p.toNat * c.snap.increment) / 16

/-- The snapshot subsecond, plus the phase term, minus the delay term (R59). -/
def fineTime (c : Capture) (delay : Nat) : Int :=
  c.snap.sub + phaseTerm c - (delay * Config.oneThirtySecond : Nat)

/-- Brought into one second, with the second adjustment: a borrow, a carry, or neither (R60). -/
def normalise (fine : Int) : Int × Int :=
  if fine < 0 then (fine + Config.oneSecond, -1)
  else if Config.oneSecond ≤ fine then (fine - Config.oneSecond, 1)
  else (fine, 0)

/-- Rounded to thirty-seconds, a half up, with the rounding carry (R61). -/
def roundFine (fine adjustment : Int) : Int × Int :=
  let q := (fine + 67108864) / Config.oneThirtySecond
  if q = 32000000000 then (0, adjustment + 1) else (q, adjustment)

/-- The seconds of the result: clamped at zero, or the snapshot's seconds adjusted, wrapping (R62). -/
def composedSeconds (sec : BitVec 32) (adjustment : Int) : BitVec 32 := sec + BitVec.ofInt 32 adjustment

/-- The composition of a capture with a delay in thirty-seconds (R58 to R62). -/
def compose (c : Capture) (delay : Nat) : Composed :=
  let fine := normalise (fineTime c delay)
  let rounded := roundFine fine.1 fine.2
  let q := rounded.1.toNat
  if rounded.2 = -1 ∧ c.snap.sec = 0 then
    { time := { sec := 0, ns := 0, th := 0 }, clamped := true, q := q }
  else
    { time := { sec := composedSeconds c.snap.sec rounded.2, ns := q / 32, th := q % 32 }, clamped := false, q := q }

/-- A composed time with the epoch and quality of the capture's snapshot (R63). -/
def Capture.dated (c : Capture) (delay : Nat) : DatedTime :=
  { time := (compose c delay).time, epoch := c.snap.epoch, quality := c.snap.quality }

/-- The lead of a partner behind its winner before saturation, in thirty-seconds (R65). -/
def exactLead (winner : Stamp) (winnerDelay : Nat) (partner : Stamp) (partnerDelay : Nat) : Int :=
  (partner.n - winner.n).toInt * 80 + 5 * ((partner.p.toNat : Int) - winner.p.toNat)
    - ((partnerDelay : Int) - winnerDelay)

/-- The lead as reported, saturated (R66). -/
def leadOf (winner : Stamp) (winnerDelay : Nat) (partner : Stamp) (partnerDelay : Nat) : Int :=
  max (-2147483647) (min 2147483647 (exactLead winner winnerDelay partner partnerDelay))

/-- The error E of an edge from its subsecond value: ahead below half a second, behind from there on (R42). -/
def errorOf (q : Nat) : Int := if q / 32 < 500000000 then q else q - 32000000000

end Sys2Proof.Machine
end

