-- ==== Sys2Proof/Machine/Bytes.lean ====
section
/-! DEFINITION. Byte order, fields of byte strings, and rounding. -/

namespace Sys2Proof.Machine

/-- The low width bytes of n, least significant first (10: every multi-byte field is little-endian). -/
def leBytes : Nat → Nat → List Byte
  | 0, _ => []
  | width + 1, n => BitVec.ofNat 8 n :: leBytes width (n / 256)

/-- The number that bytes spell, least significant first. -/
def leNat : List Byte → Nat
  | [] => 0
  | b :: bs => b.toNat + 256 * leNat bs

/-- The number that bytes spell, most significant first. -/
def beNat (bs : List Byte) : Nat := leNat bs.reverse

/-- The two's complement of i in width bytes, little-endian (10). -/
def leInt (width : Nat) (i : Int) : List Byte := leBytes width (i % (2 ^ (8 * width) : Nat)).toNat

/-- The signed number that the low width bytes of n hold in two's complement (10). -/
def signedOf (width n : Nat) : Int := if n < 2 ^ (8 * width - 1) then n else n - (2 ^ (8 * width) : Nat)

/-- So many zero bytes. -/
def zeros (n : Nat) : List Byte := List.replicate n 0

/-- The bytes of a string from an offset. -/
def fieldAt (bs : List Byte) (offset length : Nat) : List Byte := (bs.drop offset).take length

/-- A string with a field put over the bytes at an offset. -/
def placeAt (bs : List Byte) (offset : Nat) (field : List Byte) : List Byte :=
  bs.take offset ++ field ++ bs.drop (offset + field.length)

/-- A string of so many bytes with each field at its offset and zero elsewhere (R158, R164). -/
def layout (size : Nat) (fields : List (Nat × List Byte)) : List Byte :=
  fields.foldl (fun bs f => placeAt bs f.1 f.2) (zeros size)

/-- A field that reaches past the end of the string is missing (R69). -/
def field? (bs : List Byte) (offset length : Nat) : Option (List Byte) :=
  if offset + length ≤ bs.length then some (fieldAt bs offset length) else none

/-- Rounded up to a multiple of 8 (R11, R18, R84). -/
def roundUp8 (n : Nat) : Nat := (n + 7) / 8 * 8

/-- num / den rounded to the nearest integer, halves away from zero, for den > 0 (00 Rounding). -/
def roundDiv (num : Int) (den : Nat) : Int :=
  if 0 ≤ num then (2 * num + den) / (2 * den) else -((2 * -num + den) / (2 * den))

/-- A value brought to the nearest end of a range (R158). -/
def clampInt (low high x : Int) : Int := max low (min high x)

/-- A value brought to the nearest end of a range (R158). -/
def clampNat (low high x : Nat) : Nat := max low (min high x)

end Sys2Proof.Machine
end

