-- ==== Sys2Proof/Machine/Flags.lean ====
section
/-! DEFINITION. The flags field of records (R166). -/

namespace Sys2Proof.Machine

/-- Bit i of a flags field, when the flag is set. -/
def flagBit (i : Nat) (isSet : Bool) : Nat := if isSet then 2 ^ i else 0

/-- The flags of an ARRIVAL record (R166). -/
def ArrivalFlags.bits (f : ArrivalFlags) : Nat :=
  flagBit 0 f.published + flagBit 1 f.fill + flagBit 2 f.isPartial + flagBit 3 f.duplicate + flagBit 4 f.stale
    + flagBit 5 f.heartbeat + flagBit 6 f.resync + flagBit 7 f.unmapped + flagBit 8 f.foreign + flagBit 9 f.badFcs
    + flagBit 10 f.truncated + flagBit 11 f.timeClamped

/-- The flags of a GAP or LINE_MISS record: EVICTED in bit 0, FLUSHED in bit 1 (R166). -/
def Removal.bits : Removal → Nat
  | .expired => 0
  | .evicted => 1
  | .flushed => 2

/-- The flags of a record by its kind; RESYNC, STEP and PORT records have none and a DROPPED record has no flags
field (R166, R169). -/
def Record.flags : Record → Nat
  | .arrival r => r.flags.bits
  | .partner r => flagBit 0 r.misaligned + flagBit 1 r.inverted
  | .gap r => r.removal.bits
  | .lineMiss r => r.removal.bits
  | .resync _ => 0
  | .dropped _ => 0
  | .step _ => 0
  | .port _ => 0
  | .time r => flagBit 0 r.stepped + flagBit 1 r.held + flagBit 2 r.setAside

end Sys2Proof.Machine
end

