-- ==== Sys2Proof/Machine/Records.lean ====
section
/-! DEFINITION. The layouts of the nine kinds of record (R164 to R169). -/

namespace Sys2Proof.Machine

/-- The quality codes (R164). -/
def Quality.code : Quality → Nat
  | .free => 0
  | .acquiring => 1
  | .locked => 2
  | .holdover => 3

/-- The codes of link and health in a PORT record (R168). -/
def linkCode : LinkState → Nat
  | .down => 0
  | .up => 1

def Health.code : Health → Nat
  | .normal => 0
  | .degraded => 1
  | .fenced => 2

def Line.code : Line → Nat
  | .a => 0
  | .b => 1

/-- The other line (R119). -/
def Line.other : Line → Line
  | .a => .b
  | .b => .a

/-- The reason codes (R166). -/
def Reason.code : Reason → Nat
  | .none => 0
  | .notUdp => 1
  | .noMap => 2
  | .channelOff => 3
  | .marker => 4
  | .short => 5

def StepCause.code : StepCause → Nat
  | .set => 1
  | .adjust => 2
  | .discipline => 3

def TimeEvent.code : TimeEvent → Nat
  | .edge => 1
  | .holdover => 2
  | .disabled => 3

def Direction.code : Direction → Nat
  | .ahead => 0
  | .behind => 1

/-- A yes or no byte (R167). -/
def boolCode (b : Bool) : Nat := if b then 1 else 0

/-- A capture stamp as one 64-bit number, n × 16 + p, modulo 2^64 (R5, R165). -/
def Stamp.value (t : Stamp) : Nat := (t.n.toNat * 16 + t.p.toNat) % 2 ^ 64

/-- The kind code (R164). -/
def Record.kind : Record → Nat
  | .arrival _ => 1
  | .partner _ => 2
  | .gap _ => 3
  | .lineMiss _ => 4
  | .resync _ => 5
  | .dropped _ => 6
  | .step _ => 7
  | .port _ => 8
  | .time _ => 9

/-- The length of a record in bytes (R164). -/
def Record.length : Record → Nat
  | .arrival r => 64 + roundUp8 r.captured.length
  | .partner _ | .gap _ | .lineMiss _ | .resync _ | .dropped _ | .step _ | .port _ | .time _ => 48

/-- The staging blocks a record occupies (R129). -/
def Record.blocks (r : Record) : Nat := (r.length + 63) / 64

/-- The time of a record (R164). -/
def Record.dated : Record → DatedTime
  | .arrival r => r.time
  | .partner r => r.time
  | .gap r => r.time
  | .lineMiss r => r.time
  | .resync r => r.time
  | .dropped r => r.time
  | .step r => r.time
  | .port r => r.time
  | .time r => r.time

/-- The channel field: FFFFh for none (R164). -/
def channelField : Option ChannelNo → Nat
  | some c => c
  | none => 0xFFFF

/-- The line field: FFh for none (R164). -/
def lineField : Option Line → Nat
  | some x => x.code
  | none => 0xFF

/-- The source fields at offsets 8, 10 and 11: channel, port and line (R165, R167, R168). -/
def Record.source : Record → Nat × Nat × Nat
  | .arrival r => (channelField r.channel, r.port, lineField r.line)
  | .partner r => (r.channel, r.port, r.line.code)
  | .gap r => (r.channel, r.port, 0xFF)
  | .lineMiss r => (r.channel, r.port, r.line.code)
  | .resync r => (r.channel, r.port, r.line.code)
  | .dropped _ => (0, 0, 0)
  | .step _ => (0xFFFF, 0xFF, 0xFF)
  | .port r => (0xFFFF, r.port, 0xFF)
  | .time _ => (0xFFFF, 0xFF, 0xFF)

/-- The fields of a record after byte 24 (R165, R167, R168). -/
def Record.ownFields : Record → List (Nat × List Byte)
  | .arrival r =>
    [(25, leBytes 1 r.reason.code), (26, leBytes 2 r.frameLength), (28, leBytes 2 r.captured.length),
     (30, leBytes 2 r.msgCount), (32, leBytes 8 r.first), (40, leBytes 8 r.pubFirst), (48, leBytes 2 r.pubCount),
     (56, leBytes 8 r.stamp.value), (64, r.captured)]
  | .partner r =>
    [(25, leBytes 1 r.winnerPort), (26, leBytes 2 r.count), (28, leInt 4 r.lead), (32, leBytes 8 r.first)]
  | .gap r =>
    [(25, leBytes 1 (boolCode r.reached)), (28, leBytes 4 r.held), (32, leBytes 8 r.first), (40, leBytes 8 r.count)]
  | .lineMiss r =>
    [(25, leBytes 1 r.line.other.code), (26, leBytes 1 (boolCode r.reached)), (28, leBytes 4 r.held),
     (32, leBytes 8 r.first), (40, leBytes 2 r.count)]
  | .resync r =>
    [(25, leBytes 1 r.direction.code), (26, leBytes 2 r.flushed), (32, leBytes 8 r.oldNext), (40, leBytes 8 r.newNext)]
  | .dropped _ => []
  | .step r =>
    [(25, leBytes 1 r.cause.code), (28, leBytes 4 r.oldNs), (32, leBytes 4 r.oldSec.toNat), (40, leInt 8 r.offset)]
  | .port r => [(25, leBytes 1 (linkCode r.link)), (26, leBytes 1 r.health.code), (28, leBytes 4 r.windowCount)]
  | .time r =>
    [(25, leBytes 1 r.event.code), (26, leBytes 1 r.state.code), (28, leInt 4 r.freq), (32, leInt 8 r.error),
     (40, leInt 4 r.slewNs)]

/-- The common part of a record but for bytes 8 to 13 (R164). -/
def Record.commonFields (r : Record) (serial : BitVec 32) : List (Nat × List Byte) :=
  [(0, leBytes 1 r.kind), (1, leBytes 1 r.dated.quality.code), (2, leBytes 2 r.length), (4, leBytes 4 serial.toNat),
   (14, leBytes 2 r.dated.epoch.toNat), (16, leBytes 4 r.dated.time.sec.toNat), (20, leBytes 4 r.dated.time.ns)]

/-- The source, flags and thirty-seconds of every kind but DROPPED (R164). -/
def Record.sourceFields (r : Record) : List (Nat × List Byte) :=
  [(8, leBytes 2 r.source.1), (10, leBytes 1 r.source.2.1), (11, leBytes 1 r.source.2.2), (12, leBytes 2 r.flags),
   (24, leBytes 1 r.dated.time.th)]

/-- The own fields of a DROPPED record (R169). -/
def DroppedRecord.fields (r : DroppedRecord) : List (Nat × List Byte) :=
  [(8, leBytes 2 r.first.epoch.toNat), (10, leBytes 2 r.last.epoch.toNat), (12, leBytes 1 r.time.time.th),
   (24, leBytes 4 r.dropped), (28, leBytes 4 r.arrivals), (32, leBytes 4 r.first.sec.toNat), (36, leBytes 4 r.first.ns),
   (40, leBytes 4 r.last.sec.toNat), (44, leBytes 4 r.last.ns)]

/-- The bytes of a record with the lane serial it is written with (R140, R164 to R169). -/
def Record.encode (r : Record) (serial : BitVec 32) : List Byte :=
  layout r.length <|
    r.commonFields serial ++
      match r with
      | .dropped d => d.fields
      | r => r.sourceFields ++ r.ownFields

end Sys2Proof.Machine
end

