-- ==== Sys2Proof/Machine/Ops.lean ====
section
/-! DEFINITION. The operations that all blocks share: access to the parts of State, the counters, the oscillator
count, the DTC reading, the Bus Interface's output, CAUSE, and the offering of records. -/

namespace Sys2Proof.Machine

/-! ### Parts of the state -/

def State.port (s : State) (k : PortNo) : Port := s.ports[k]
def State.setPort (s : State) (k : PortNo) (p : Port) : State := { s with ports := s.ports.set k p }
def State.map (s : State) (k : PortNo) : AddressMap := s.maps[k]
def State.setMap (s : State) (k : PortNo) (m : AddressMap) : State := { s with maps := s.maps.set k m }
def State.channel (s : State) (c : ChannelNo) : Channel := s.channels[c]
def State.setChannel (s : State) (c : ChannelNo) (r : Channel) : State := { s with channels := s.channels.set c r }
def State.lane (s : State) (l : LaneNo) : Lane := s.lanes[l]
def State.setLane (s : State) (l : LaneNo) (r : Lane) : State := { s with lanes := s.lanes.set l r }
def State.stage (s : State) (l : LaneNo) : StagingLane := s.staging[l]
def State.setStage (s : State) (l : LaneNo) (r : StagingLane) : State := { s with staging := s.staging.set l r }
def State.inputOf (s : State) (k : PortNo) : Option Classified := s.input[k]
def State.setInput (s : State) (k : PortNo) (f : Option Classified) : State := { s with input := s.input.set k f }
def State.waitingOf (s : State) (k : PortNo) : Option Classified := s.waiting[k]
def State.setWaiting (s : State) (k : PortNo) (f : Option Classified) : State := { s with waiting := s.waiting.set k f }

/-! ### Counters -/

def PortCounter.row : PortCounter → Fin 9
  | .passed => 0 | .runts => 1 | .giants => 2 | .fcsErrors => 3 | .fencedDiscards => 4 | .overruns => 5
  | .aborted => 6 | .badCaptured => 7 | .noticeNoLane => 8

def ClassifierPortCounter.row : ClassifierPortCounter → Fin 3
  | .notUdp => 0 | .noMap => 1 | .channelOff => 2

def TimebaseCounter.row : TimebaseCounter → Fin 4
  | .setSteps => 0 | .adjustSteps => 1 | .disciplineSteps => 2 | .stepNoLane => 3

def DisciplineCounter.row : DisciplineCounter → Fin 6
  | .accepted => 0 | .irregular => 1 | .held => 2 | .setAside => 3 | .holdovers => 4 | .timeNoLane => 5

def ClassifierChannelCounter.row : ClassifierChannelCounter → Fin 5
  | .classified => 0 | .foreignMarker => 1 | .foreignShort => 2 | .stopDiscards => 3 | .noLane => 4

def TableCounter.row : TableCounter → Fin 5
  | .published => 0 | .partners => 1 | .duplicates => 2 | .stale => 3 | .resyncs => 4

def ExpiryCounter.row : ExpiryCounter → Fin 3
  | .gaps => 0 | .lineMisses => 1 | .evictions => 2

def LaneCounter.row : LaneCounter → Fin 8
  | .written => 0 | .droppedWritten => 1 | .recordsDropped => 2 | .fullCloses => 3 | .lingerCloses => 4
  | .flushCloses => 5 | .starvations => 6 | .closeDiscards => 7

/-- The value of a counter. -/
def Counters.get (cs : Counters) : Counter → Count
  | .port k c => cs.ports[k][c.row]
  | .classifierPort k c => cs.classifierPorts[k][c.row]
  | .timebase c => cs.timebase[c.row]
  | .discipline c => cs.discipline[c.row]
  | .classifierChannel ch c => cs.classifierChannels[ch][c.row]
  | .table ch c => cs.table[ch][c.row]
  | .expiry ch c => cs.expiry[ch][c.row]
  | .poolFull => cs.poolFull
  | .lane l c => cs.lanes[l][c.row]

/-- The counters with one of them at a value. -/
def Counters.put (cs : Counters) (name : Counter) (v : Count) : Counters :=
  match name with
  | .port k c => { cs with ports := cs.ports.set k (cs.ports[k].set c.row v) }
  | .classifierPort k c => { cs with classifierPorts := cs.classifierPorts.set k (cs.classifierPorts[k].set c.row v) }
  | .timebase c => { cs with timebase := cs.timebase.set c.row v }
  | .discipline c => { cs with discipline := cs.discipline.set c.row v }
  | .classifierChannel ch c =>
    { cs with classifierChannels := cs.classifierChannels.set ch (cs.classifierChannels[ch].set c.row v) }
  | .table ch c => { cs with table := cs.table.set ch (cs.table[ch].set c.row v) }
  | .expiry ch c => { cs with expiry := cs.expiry.set ch (cs.expiry[ch].set c.row v) }
  | .poolFull => { cs with poolFull := v }
  | .lane l c => { cs with lanes := cs.lanes.set l (cs.lanes[l].set c.row v) }

/-- The counter gains so much, wrapping from 2^64 − 1 to 0 (R17, R36, R54, R87, R113, R127, R147). -/
def State.bumpBy (s : State) (name : Counter) (n : Nat) : State :=
  { s with counters := s.counters.put name (s.counters.get name + BitVec.ofNat 64 n) }

/-- The counter gains 1. -/
def State.bump (s : State) (name : Counter) : State := s.bumpBy name 1

/-! ### Oscillator count and DTC reading -/

/-- So many microseconds in oscillator cycles, as an addend of the count (R21). -/
def microseconds (us : Nat) : Count := BitVec.ofNat 64 (us * Config.cyclesPerMicrosecond)

/-- The count has reached a deadline: (count − deadline) mod 2^64 is less than 2^63 (R117, log 40). -/
def reached (now deadline : Count) : Bool := decide ((now - deadline).toNat < 2 ^ 63)

/-- The reading of the DTC that a block without a capture takes (R24). -/
def State.reading (s : State) : DatedTime :=
  { time := { sec := s.timebase.sec
              ns := s.timebase.sub / Config.oneNanosecond
              th := s.timebase.sub / Config.oneThirtySecond % 32 }
    epoch := s.timebase.epoch
    quality := s.discipline.state }

/-! ### Output of the Bus Interface -/

/-- Issues a host-memory write; none is issued in the FAULTED state (R162). -/
def State.issueWrite (s : State) (runs : List Run) : State :=
  if s.bus.faulted then s else { s with bus := { s.bus with log := s.bus.log ++ [.write runs] } }

/-- Issues a write of one contiguous run of bytes. -/
def State.writeAt (s : State) (address : Address) (bytes : List Byte) : State :=
  s.issueWrite [{ address := address, bytes := bytes }]

/-- Issues a write into the Control Area, when there is one (R151, R171). -/
def State.writeArea (s : State) (offset : Nat) (bytes : List Byte) : State :=
  if s.bus.areaBase = 0 then s else s.writeAt (s.bus.areaBase + BitVec.ofNat 64 offset) bytes

/-- Issues a host-memory read, which is outstanding from then on; none is issued in the FAULTED state (R161, R162). -/
def State.issueRead (s : State) (purpose : ReadPurpose) (address : Address) (length : Nat) : State :=
  if s.bus.faulted then s
  else
    { s with bus :=
      { s.bus with
        reads := s.bus.reads ++ [{ tag := s.bus.nextTag, purpose := purpose, address := address, length := length,
                                   issued := s.count, wanted := true }]
        nextTag := s.bus.nextTag + 1
        log := s.bus.log ++ [.read s.bus.nextTag address length] } }

/-! ### CAUSE and the interrupt -/

/-- The bit of CAUSE and of the cause enables, 0 to 7 (R176). -/
def CauseBit.index : CauseBit → Nat
  | .lane l => l
  | .request => 4
  | .time => 5
  | .port => 6
  | .fault => 7

/-- The summary: the notify enable is on and an enabled bit of CAUSE is set (R154). -/
def BusInterface.summary (b : BusInterface) : Bool := b.notify && (b.cause &&& b.enables != 0)

/-- One interrupt message, issued now; not sent and not kept while the host has sending disabled (R154). -/
def BusInterface.sendMessage (b : BusInterface) : BusInterface :=
  if b.message.sending then { b with log := b.log ++ [.message b.message.address b.message.data] } else b

/-- A change of the registers, with the message that a change of the summary from false to true sends (R154). -/
def BusInterface.withMessage (before after : BusInterface) : BusInterface :=
  if !before.summary && after.summary then after.sendMessage else after

/-- Sets a bit of CAUSE, whatever the enables (R153). -/
def State.setCause (s : State) (bit : CauseBit) : State :=
  { s with bus := s.bus.withMessage { s.bus with cause := s.bus.cause ||| BitVec.twoPow 8 bit.index } }

/-! ### Offering records -/

/-- The no-lane counter of the block that offers (R131, R17, R36, R54, R87). -/
def Source.noLane : Source → Counter
  | .port k => .port k .noticeNoLane
  | .classifier _ ch => .classifierChannel ch .noLane
  | .table ch _ => .classifierChannel ch .noLane
  | .timebase => .timebase .stepNoLane
  | .discipline => .discipline .timeNoLane

/-- Offers a record to staging on a lane: it waits for the Staging Buffer to take it (R131). -/
def State.offer (s : State) (lane : LaneNo) (source : Source) (record : Record) : State :=
  { s with offers := s.offers ++ [{ lane := lane, source := source, record := record }] }

/-- Offers a record on a lane that may be none; with none it is discarded and the no-lane counter gains 1
(R11, R15, R47, R73). -/
def State.offerOrDiscard (s : State) (lane : Option LaneNo) (source : Source) (record : Record) : State :=
  match lane with
  | some l => s.offer l source record
  | none => s.bump source.noLane

/-! ### Requests -/

/-- A numeric field of a request slot (R171). -/
def slotField (slot : List Byte) (offset length : Nat) : Nat := leNat (fieldAt slot offset length)

/-- The request code of a slot (R171). -/
def slotCode (slot : List Byte) : Nat := slotField slot 1 1

/-- The owner carries out the request handed to it, if that request has its code (R157). -/
def State.carryOut (s : State) (code : Nat) (act : List Byte → State → State) : State :=
  match s.engine.handed with
  | some slot => if slotCode slot = code then act slot { s with engine := { s.engine with handed := none } } else s
  | none => s

/-- The result of a request: 16 bytes, slot offsets 48 to 63, every byte that no field names 0 (R158, R171, log 11). -/
def resultOf (fields : List (Nat × List Byte)) : List Byte := layout 16 (fields.map fun f => (f.1 - 48, f.2))

/-- The owner returns its outcome and result to the engine; after a read failure the engine no longer waits for
them (R157, R162). -/
def State.answerWith (s : State) (outcome : ReqOutcome) (fields : List (Nat × List Byte)) : State :=
  { s with engine :=
    { s.engine with
      answer := if s.engine.state = .busy then some { outcome := outcome, result := resultOf fields }
                else s.engine.answer } }

end Sys2Proof.Machine
end

