-- ==== Sys2Proof/Machine/Operands.lean ====
section
/-! DEFINITION. The operand forms: the enumerated parameters of requests (R171), the parameters of each request
(R172, R173), and the registers (R176). -/

namespace Sys2Proof.Machine

/-! ### Enumerated parameters (R171) -/

/-- A parameter with two codes: 0 and 1. -/
def twoValued {α : Type} (code : Nat) (zero one : α) : Option α :=
  if code = 0 then some zero else if code = 1 then some one else none

/-- A switch: 0 off, 1 on. -/
def switch? (code : Nat) : Option Bool := twoValued code false true

def portNo? (n : Nat) : Option PortNo := if h : n < 8 then some ⟨n, h⟩ else none
def laneNo? (n : Nat) : Option LaneNo := if h : n < 4 then some ⟨n, h⟩ else none
def channelNo? (n : Nat) : Option ChannelNo := if h : n < 256 then some ⟨n, h⟩ else none

/-- A notice lane or discipline lane: 0 to 3, or FFh for none. -/
def laneOrNone? (n : Nat) : Option (Option LaneNo) := if n = 255 then some none else (laneNo? n).map some

/-- The ports of a port set: bit k is port k. -/
def portSet (bits : Nat) : List PortNo := (List.finRange 8).filter fun k => bits.testBit k

/-! ### Parameters of the requests (R172, R173) -/

/-- The parameters of DISCIPLINE_SET that are not tunable, and the six adoption settings as given (R50, R172). -/
structure DisciplineParams where
  enabled : Bool
  polarity : EdgeKind
  lampPolarity : Polarity
  lane : Option LaneNo
  given : Adoption
  deriving DecidableEq, Repr

/-- The parameters of DISCIPLINE_SET; none when a structural value is out of range (R50). -/
def disciplineParams (slot : List Byte) : Option DisciplineParams := do
  let enabled ← switch? (slotField slot 8 1)
  let polarity ← twoValued (slotField slot 9 1) EdgeKind.rising EdgeKind.falling
  let backward ← switch? (slotField slot 10 1)
  let lampPolarity ← twoValued (slotField slot 11 1) Polarity.activeHigh Polarity.activeLow
  let lane ← laneOrNone? (slotField slot 12 1)
  let threshold ← if slotField slot 16 4 ≤ 999999999 then some (slotField slot 16 4) else none
  some { enabled := enabled, polarity := polarity, lampPolarity := lampPolarity, lane := lane
         given := { ppsDelay := slotField slot 14 2, stepThreshold := threshold, slewRate := slotField slot 20 2
                    backwardSlew := backward, gain := slotField slot 13 1, lockThreshold := slotField slot 24 4 } }

/-- The adoption settings with the tunable ones clamped (R50, R172). -/
def Adoption.clamped (a : Adoption) : Adoption :=
  { a with slewRate := clampNat 1 500 a.slewRate
           gain := clampNat 0 15 a.gain
           lockThreshold := clampNat 1 1000000 a.lockThreshold }

/-- The parameters of PORT_SET; the snap length as given (R18, R172). -/
structure PortParams where
  port : PortNo
  enabled : Bool
  settings : PortSettings
  deriving DecidableEq, Repr

/-- The parameters of PORT_SET; none when one is out of range (R18). -/
def portParams (slot : List Byte) : Option PortParams := do
  let port ← portNo? (slotField slot 8 1)
  let enabled ← switch? (slotField slot 9 1)
  let noticeLane ← laneOrNone? (slotField slot 10 1)
  let unmapped ← twoValued (slotField slot 11 1) CapturePolicy.ignore CapturePolicy.capture
  let badFrame ← twoValued (slotField slot 12 1) CapturePolicy.ignore CapturePolicy.capture
  let fence ← switch? (slotField slot 13 1)
  let lampPolarity ← twoValued (slotField slot 14 1) Polarity.activeHigh Polarity.activeLow
  some { port := port, enabled := enabled
         settings := { frame := { delay := slotField slot 16 2, noticeLane := noticeLane, unmapped := unmapped
                                  badFrame := badFrame, snap := slotField slot 18 2 }
                       threshold := slotField slot 20 2, fence := fence, lampPolarity := lampPolarity } }

/-- A snap length as applied: rounded up to a multiple of 8, then clamped to 1,536 (R18, R84). -/
def appliedSnap (requested : Nat) : Nat := min Config.snapLimit (roundUp8 requested)

/-- The key of MAP_ADD and MAP_REMOVE: the address in the order its bytes stand in the header, the UDP port
little-endian (R173). -/
def slotKey (slot : List Byte) : Key :=
  { address := BitVec.ofNat 32 (beNat (fieldAt slot 16 4)), udpPort := BitVec.ofNat 16 (slotField slot 14 2) }

/-- The parameters of MAP_ADD (R74, R173). -/
structure MapAddParams where
  ports : List PortNo
  report : PortNo
  entry : MapEntry
  deriving DecidableEq, Repr

/-- The parameters of MAP_ADD; none when one is out of range (R74). -/
def mapAddParams (slot : List Byte) : Option MapAddParams := do
  let ports := portSet (slotField slot 8 1)
  let report ← portNo? (slotField slot 9 1)
  let line ← twoValued (slotField slot 10 1) Line.a Line.b
  let channel ← channelNo? (slotField slot 12 2)
  if ports.contains report then
    some { ports := ports, report := report, entry := { key := slotKey slot, channel := channel, line := line } }
  else none

/-- A byte order: 0 big-endian, 1 little-endian. -/
def byteOrder? (code : Nat) : Option ByteOrder := twoValued code ByteOrder.big ByteOrder.little

/-- The count locator of CHANNEL_SET: absent for width 0, whose order and offset are then not checked (R83, R173). -/
def countLocator? (slot : List Byte) : Option (Option Locator) :=
  let width := slotField slot 15 1
  if width = 0 then some none
  else if (width = 1 ∨ width = 2) ∧ slotField slot 22 2 ≤ 1023 then
    (byteOrder? (slotField slot 16 1)).map fun order =>
      some { offset := slotField slot 22 2, width := width, order := order }
  else none

/-- The sequence locator of CHANNEL_SET (R83, R173). -/
def sequenceLocator? (slot : List Byte) : Option Locator :=
  let width := slotField slot 13 1
  if (width = 4 ∨ width = 8) ∧ slotField slot 20 2 ≤ 1023 then
    (byteOrder? (slotField slot 14 1)).map fun order =>
      { offset := slotField slot 20 2, width := width, order := order }
  else none

/-- The marker of CHANNEL_SET (R83, R173). -/
def marker? (slot : List Byte) : Option Marker :=
  let m : Marker := { index := slotField slot 18 1, length := slotField slot 17 1, offset := slotField slot 24 2 }
  if m.length ≤ 8 ∧ m.offset ≤ 1023 ∧ m.index + m.length ≤ 256 then some m else none

/-- The settings of CHANNEL_SET as given; none when a structural one is out of range (R83, R173). -/
def channelParams (slot : List Byte) : Option ChannelSettings := do
  let mode ← twoValued (slotField slot 10 1) Mode.paired Mode.single
  let lane ← laneNo? (slotField slot 11 1)
  let reject ← twoValued (slotField slot 12 1) RejectPolicy.drop RejectPolicy.capture
  let sequence ← sequenceLocator? slot
  let msgCount ← countLocator? slot
  let marker ← marker? slot
  some { mode := mode, lane := lane, snap := slotField slot 26 2, sequence := sequence, msgCount := msgCount
         marker := marker, partnerWindow := slotField slot 28 2, gapWindow := slotField slot 30 2
         resyncLimit := slotField slot 32 8, entryCap := slotField slot 40 2, reject := reject }

/-- The modulus M of a channel's sequence numbers (00 Sequence arithmetic). -/
def ChannelSettings.modulus (c : ChannelSettings) : Nat := 2 ^ (8 * c.sequence.width)

/-- The settings as CHANNEL_SET applies them (R84). -/
def ChannelSettings.applied (c : ChannelSettings) : ChannelSettings :=
  { c with snap := appliedSnap c.snap
           partnerWindow := max 1 c.partnerWindow
           gapWindow := max 1 c.gapWindow
           resyncLimit := clampNat 1 (c.modulus / 2 - 1) c.resyncLimit
           entryCap := clampNat 1 Config.poolSize c.entryCap }

/-- The parameters of LANE_OPEN but for the lane (R137, R173). -/
structure OpenParams where
  opening : Opening
  list : Address
  deriving DecidableEq, Repr

/-- The parameters of LANE_OPEN; none when the page count, exponent or list address is out of range (R137). -/
def openParams (slot : List Byte) : Option OpenParams :=
  let count := slotField slot 10 2
  let exponent := slotField slot 9 1
  let list := slotField slot 24 8
  if 2 ≤ count ∧ count ≤ 1024 ∧ 12 ≤ exponent ∧ exponent ≤ 20 ∧ list % 8 = 0 then
    some { opening := { count := count, exponent := exponent, linger := slotField slot 12 2
                        holdoff := slotField slot 14 2, batch := slotField slot 16 2 }
           list := BitVec.ofNat 64 list }
  else none

/-! ### Registers (R150, R176) -/

/-- CONTROL as it reads: the notify enable in bit 0, the cause enables in bits 8 to 15, FRESET 0. -/
def BusInterface.control (b : BusInterface) : BitVec 32 :=
  BitVec.ofNat 32 ((if b.notify then 1 else 0) + b.enables.toNat * 256)

/-- What a 32-bit read at an offset of the register window returns (R150, R176). The read of CAUSE also clears:
that is the command CAUSE_READ. -/
def BusInterface.readHalf (b : BusInterface) (offset : Nat) : BitVec 32 :=
  if offset = 0x00 then Config.ident
  else if offset = 0x08 then b.areaBase.setWidth 32
  else if offset = 0x0C then (b.areaBase >>> 32).setWidth 32
  else if offset = 0x10 then b.control
  else if offset = 0x18 then b.cause.setWidth 32
  else if offset = 0x20 then b.faultAddr.setWidth 32
  else if offset = 0x24 then (b.faultAddr >>> 32).setWidth 32
  else 0

/-- What a 64-bit read of AREA_BASE or FAULT_ADDR returns: its two halves (R150, R176). -/
def BusInterface.readWhole (b : BusInterface) (offset : Nat) : BitVec 64 :=
  b.readHalf (offset + 4) ++ b.readHalf offset

end Sys2Proof.Machine
end

