-- ==== Sys2Proof/Machine/Timebase.lean ====
section
/-! DEFINITION. The Timebase: the oscillator count, the increment, slews, steps, and the three requests
SET_TIME, ADJUST_TIME and SET_FREQUENCY (R21 to R36). -/

namespace Sys2Proof.Machine

/-- The slew rate S that governs the running cycle (R25, R26). -/
def State.slewRate (s : State) : Nat := s.timebase.slewRate

/-- The frequency term of the increment: F × 10.73741824 rounded (R23). -/
def freqTerm (f : Int) : Int := roundDiv (f * 1073741824) 100000000

/-- The magnitude of the full bias: S × 10,737.41824 rounded (R26). -/
def fullBias (rate : Nat) : Int := roundDiv ((rate : Int) * 1073741824) 100000

/-- The slew bias B of a cycle that begins with pending slew R: the full bias with the sign of R, or R itself when
its magnitude is below the full bias (R26). -/
def slewBias (slew : Int) (rate : Nat) : Int :=
  if fullBias rate ≤ (slew.natAbs : Int) then (if 0 ≤ slew then fullBias rate else -fullBias rate) else slew

/-- The slew bias of the current cycle; 0 in a cycle that begins with R = 0 (R26). -/
def State.bias (s : State) : Int := if s.timebase.slew = 0 then 0 else slewBias s.timebase.slew s.slewRate

/-- The increment of the current cycle, in sub-units (R23). -/
def State.increment (s : State) : Int := Config.nominalIncrement + freqTerm s.timebase.freq + s.bias

/-- The DTC as one exact number of sub-units. -/
def Timebase.total (t : Timebase) : Int := t.sec.toNat * Config.oneSecond + t.sub

/-- The DTC set to so many sub-units, the seconds modulo 2^32 (R22, R28). -/
def Timebase.setTotal (t : Timebase) (total : Int) : Timebase :=
  { t with sec := BitVec.ofNat 32 (total / Config.oneSecond).toNat, sub := (total % Config.oneSecond).toNat }

/-- F brought into range (R25). -/
def clampFreq (f : Int) : Int := clampInt (-Config.freqLimit) Config.freqLimit f

/-- R brought into range (R25). -/
def clampSlew (r : Int) : Int := clampInt (-Config.halfSecond) Config.halfSecond r

/-- R in nanoseconds, rounded (R34, R36, R47). -/
def slewNs (r : Int) : Int := roundDiv r Config.oneNanosecond

/-- The end of an oscillator cycle (R21, R22, R26): the count gains 1, the DTC gains the cycle's increment, R loses the
cycle's bias, and an S handed over during the cycle governs from the next one on (R27, log 42). A new cycle has taken
no timer expiry yet (log 6). -/
def cycleEnd (s : State) : State :=
  let sum := s.timebase.sub + s.increment
  { s with
    count := s.count + 1
    timebase :=
      { s.timebase with
        sec := if Config.oneSecond ≤ sum then s.timebase.sec + 1 else s.timebase.sec
        sub := (if Config.oneSecond ≤ sum then sum - Config.oneSecond else sum).toNat
        slew := s.timebase.slew - s.bias
        slewRate := s.discipline.active.slewRate }
    bus := { s.bus with scanTaken := false, refreshTaken := false } }

/-- The counter of a step's cause (R28). -/
def StepCause.counter : StepCause → Counter
  | .set => .timebase .setSteps
  | .adjust => .timebase .adjustSteps
  | .discipline => .timebase .disciplineSteps

/-- Offers a record on each of the four lanes, L0 first (R29). -/
def State.offerAll (s : State) (source : Source) (record : Record) : State :=
  { s with offers := s.offers ++ (List.finRange 4).map fun l => { lane := l, source := source, record := record } }

/-- The STEP record of a step, built in the step cycle after the step: the old time is that of the DTC before it
(R29). -/
def stepRecord (old : Timebase) (cause : StepCause) (offset : Int) (after : State) : Record :=
  .step { cause := cause, oldSec := old.sec, oldNs := old.sub / Config.oneNanosecond, offset := offset
          time := after.reading }

/-- A step to a new DTC value: the epoch gains 1, R is cleared, the cause's counter gains 1, the STEP record is
offered to the four lanes, and CAUSE TIME is set (R28, R29). -/
def stepTo (cause : StepCause) (total : Int) (offset : Int) (s : State) : State :=
  let moved := { s with timebase := { s.timebase.setTotal total with epoch := s.timebase.epoch + 1, slew := 0 } }
  let counted := moved.bump cause.counter
  (counted.offerAll .timebase (stepRecord s.timebase cause offset counted)).setCause .time

/-- A step by an offset in sub-units, set to zero when it would fall below; the record carries the offset asked
for, in nanoseconds (R28, R29). -/
def stepBy (cause : StepCause) (offset : Int) (offsetNs : Int) (s : State) : State :=
  stepTo cause (max 0 (s.timebase.total + offset)) offsetNs s

/-- The epoch, as every result of a Timebase request carries it (R31). -/
def epochField (offset : Nat) (s : State) : Nat × List Byte := (offset, leBytes 2 s.timebase.epoch.toNat)

/-- What a SET step does to the discipline: the count becomes 0, and LOCKED becomes ACQUIRING (R32). -/
def Discipline.afterSetStep (d : Discipline) : Discipline :=
  { d with good := 0, state := if d.state = .locked then .acquiring else d.state }

/-- SET_TIME carried out (R32). -/
def carrySetTime (slot : List Byte) (s : State) : State :=
  let sec := slotField slot 8 4
  let ns := slotField slot 12 4
  if 999999999 < ns then s.answerWith .badParam [epochField 56 s]
  else
    let total : Int := sec * Config.oneSecond + ns * Config.oneNanosecond
    let offset := roundDiv (total - s.timebase.total) Config.oneNanosecond
    let t := stepTo .set total offset { s with discipline := s.discipline.afterSetStep }
    t.answerWith .ok
      [(48, leBytes 4 s.timebase.sec.toNat), (52, leBytes 4 (s.timebase.sub / Config.oneNanosecond)), epochField 56 t]

/-- ADJUST_TIME in STEP mode (R33). -/
def adjustStep (offset : Int) (s : State) : State :=
  let t := stepBy .adjust (offset * Config.oneNanosecond) offset s
  t.answerWith .ok
    [epochField 48 t, (52, leBytes 4 t.timebase.sec.toNat), (56, leBytes 4 (t.timebase.sub / Config.oneNanosecond))]

/-- ADJUST_TIME in SLEW mode (R34). -/
def adjustSlew (offset : Int) (s : State) : State :=
  let sum := s.timebase.slew + offset * Config.oneNanosecond
  let t := { s with timebase := { s.timebase with slew := clampSlew sum } }
  t.answerWith (if clampSlew sum = sum then .ok else .adjusted)
    [epochField 48 t, (60, leInt 4 (slewNs t.timebase.slew))]

/-- ADJUST_TIME carried out (R33, R34). -/
def carryAdjustTime (slot : List Byte) (s : State) : State :=
  let offset := signedOf 4 (slotField slot 8 4)
  let mode := slotField slot 12 1
  if 999999999 < offset.natAbs ∨ 1 < mode then s.answerWith .badParam [epochField 48 s]
  else if mode = 0 then adjustStep offset s
  else adjustSlew offset s

/-- SET_FREQUENCY carried out (R35). -/
def carrySetFrequency (slot : List Byte) (s : State) : State :=
  let f := signedOf 4 (slotField slot 8 4)
  let t := { s with timebase := { s.timebase with freq := clampFreq f } }
  t.answerWith (if clampFreq f = f then .ok else .adjusted) [(48, leInt 4 (clampFreq f)), epochField 52 t]

/-- OSCILLATOR_CYCLE_END (R22). -/
def execOscillatorCycleEnd (s : State) : Host.Outcome State Fault Refusal := .next (cycleEnd s)

/-- SET_TIME, request 01h (R32). -/
def execSetTime (s : State) : Host.Outcome State Fault Refusal := .next (s.carryOut 0x01 carrySetTime)

/-- ADJUST_TIME, request 02h (R33, R34). -/
def execAdjustTime (s : State) : Host.Outcome State Fault Refusal := .next (s.carryOut 0x02 carryAdjustTime)

/-- SET_FREQUENCY, request 03h (R35). -/
def execSetFrequency (s : State) : Host.Outcome State Fault Refusal := .next (s.carryOut 0x03 carrySetFrequency)

end Sys2Proof.Machine
end

