-- ==== Sys2Proof/Machine/Discipline.lean ====
section
/-! DEFINITION. The Reference Discipline Unit: capture and qualification of PPS edges, holdover, the processing of
an accepted edge, TIME records, and DISCIPLINE_SET (R39 to R54). -/

namespace Sys2Proof.Machine

/-- The phase of an event: the fraction of its cycle × 16, rounded down (R5). -/
def CycleFraction.phase (f : CycleFraction) : BitVec 4 := BitVec.ofNat 4 (f.num * 16 / f.den)

/-- The capture a latch takes now: the stamp and the snapshot of the current cycle (R4, R5, R39, R48). -/
def State.captureNow (s : State) (within : CycleFraction) : Capture :=
  { stamp := { n := s.count, p := CycleFraction.phase within }
    snap := { sec := s.timebase.sec, sub := s.timebase.sub, increment := s.increment, epoch := s.timebase.epoch
              quality := s.discipline.state } }

/-- An edge captured at count n is accepted: always in FREE and HOLDOVER, otherwise when it lies in the window
after the last accepted edge (R40). -/
def Discipline.accepts (d : Discipline) (n : Count) : Bool :=
  match d.state, d.lastAccepted with
  | .free, _ | .holdover, _ => true
  | .acquiring, some last | .locked, some last =>
    decide (Config.edgeEarliest ≤ (n - last).toNat ∧ (n - last).toNat ≤ Config.edgeLatest)
  | .acquiring, none | .locked, none => false

/-- The unit just after it has accepted an edge, the edge aside; the first edge of a run finds the count 0 (R40, R46,
log 39). The adopted S is handed to the Timebase in this cycle and governs from the next one on (R27, R52, log 42). -/
def Discipline.qualified (d : Discipline) (n : Count) : Discipline :=
  { d with
    state := if d.state = .free ∨ d.state = .holdover then .acquiring else d.state
    good := if d.state = .free ∨ d.state = .holdover then 0 else d.good
    lastAccepted := some n
    timer := true
    active := d.pending.getD d.active
    pending := none }

/-- An accepted edge takes the latch, or waits with its capture until the latch is free (R39, log 20). -/
def Discipline.admitEdge (d : Discipline) (e : Edge) : Discipline :=
  match d.latch with
  | none => { d with latch := some e }
  | some _ => { d with waiting := d.waiting ++ [e] }

/-- Sets CAUSE TIME when the discipline state has changed since a moment before (R46, R153, log 17). -/
def State.causeOnChange (s : State) (before : Quality) : State :=
  if s.discipline.state = before then s else s.setCause .time

/-- An active edge while the discipline is enabled (R39, R40, R52). Its snapshot has the increment of the running cycle,
which an S adopted here does not change: the model's choice (R4, R27, R58, log 42). -/
def captureEdge (within : CycleFraction) (s : State) : State :=
  if s.discipline.accepts s.count then
    let d := s.discipline.qualified s.count
    let e : Edge := { capture := s.captureNow within, settings := d.active, stage := .captured }
    (({ s with discipline := d.admitEdge e }).bump (.discipline .accepted)).causeOnChange s.discipline.state
  else s.bump (.discipline .irregular)

/-- Offers a TIME record on the discipline lane (R47). -/
def State.offerTime (s : State) (r : TimeRecord) : State :=
  s.offerOrDiscard s.discipline.lane .discipline (.time r)

/-- The TIME record of a HOLDOVER or DISABLED event (R47). -/
def State.eventTime (s : State) (event : TimeEvent) : TimeRecord :=
  { event := event, state := s.discipline.state, stepped := false, held := false, setAside := false
    error := s.discipline.lastError, freq := s.timebase.freq, slewNs := slewNs s.timebase.slew, time := s.reading }

/-- The holdover timer expires: it runs, the state is ACQUIRING or LOCKED, and the count has reached the last
accepted edge plus 800,000,000 (R41). -/
def State.holdoverDue (s : State) : Bool :=
  match s.discipline.lastAccepted with
  | some last =>
    s.discipline.timer && (s.discipline.state = .acquiring || s.discipline.state = .locked)
      && reached s.count (last + BitVec.ofNat 64 Config.holdoverLimit)
  | none => false

/-- The expiry of the holdover timer (R41). -/
def enterHoldover (s : State) : State :=
  let t := ({ s with discipline := { s.discipline with state := .holdover, good := 0, timer := false } }).bump
    (.discipline .holdovers)
  (t.offerTime (t.eventTime .holdover)).setCause .time

/-- The correction an error calls for under the edge's settings (R43, R44). -/
def correctionFor (a : Adoption) (e : Int) : Correction :=
  let deltaF := -(roundDiv (e * a.gain) 512)
  if a.stepThreshold ≠ 0 ∧ a.stepThreshold * 32 < e.natAbs then .step (-e)
  else if a.backwardSlew = false ∧ 0 < e then .held deltaF
  else .slew deltaF (-e * Config.oneThirtySecond)

def Correction.isStep : Correction → Bool
  | .step _ => true
  | .slew _ _ | .held _ => false

def Correction.isHeld : Correction → Bool
  | .held _ => true
  | .step _ | .slew _ _ => false

/-- The measurement of an edge (R42, R64). -/
def Edge.measure (e : Edge) : Measured :=
  { error := errorOf (compose e.capture e.settings.ppsDelay).q, time := e.capture.dated e.settings.ppsDelay }

/-- The unit measures the edge in the latch and hands the Timebase its correction (R42, R43, R44, log 18). -/
def processEdge (e : Edge) (s : State) : State :=
  let m := e.measure
  let correction := correctionFor e.settings m.error
  let t :=
    { s with discipline :=
      { s.discipline with lastError := m.error, latch := some { e with stage := .handed m correction } } }
  if correction.isHeld then t.bump (.discipline .held) else t

/-- F after the servo's change of it; in HOLDOVER no edge changes F (R30, R35, R41, log 39). -/
def State.servoFreq (s : State) (deltaF : Int) : Int :=
  if s.discipline.state = .holdover then s.timebase.freq else clampFreq (s.timebase.freq + deltaF)

/-- The Timebase applies a correction (R30, R43, R44). -/
def applyCorrection (correction : Correction) (s : State) : State :=
  match correction with
  | .step offset => stepBy .discipline (offset * Config.oneThirtySecond) (roundDiv offset 32) s
  | .slew deltaF newSlew =>
    { s with timebase := { s.timebase with freq := s.servoFreq deltaF, slew := clampSlew newSlew } }
  | .held deltaF => { s with timebase := { s.timebase with freq := s.servoFreq deltaF } }

/-- The edge in the latch with the Timebase's answer (R45). -/
def State.answerEdge (s : State) (e : Edge) (m : Measured) (correction : Correction) (applied : Bool) : State :=
  { s with discipline :=
    { s.discipline with
      latch := some { e with stage := .answered m correction applied s.timebase.freq s.timebase.slew } } }

/-- The Timebase takes the correction of the edge in the latch, or sets it aside when a step has begun a new epoch
since the edge's capture (R30, R45). -/
def takeCorrection (e : Edge) (m : Measured) (correction : Correction) (s : State) : State :=
  if s.timebase.epoch = e.capture.snap.epoch then (applyCorrection correction s).answerEdge e m correction true
  else (s.bump (.discipline .setAside)).answerEdge e m correction false

/-- LOCKED falls to ACQUIRING (R43, R46). -/
def Quality.unlocked (q : Quality) : Quality := if q = .locked then .acquiring else q

/-- The lock test (R46). -/
def Discipline.lockTest (d : Discipline) (e : Int) (lockThreshold : Nat) : Discipline :=
  if e.natAbs ≤ lockThreshold * 32 then
    let good := min (d.good + 1) 4
    { d with good := good, state := if d.state = .acquiring ∧ good = 4 then .locked else d.state }
  else { d with good := 0, state := d.state.unlocked }

/-- The count and state after the Timebase's answer (R43, R45, R46). -/
def Discipline.settle (d : Discipline) (lockThreshold : Nat) (m : Measured) (correction : Correction)
    (applied : Bool) : Discipline :=
  if !applied then d
  else if correction.isStep then { d with good := 0, state := d.state.unlocked }
  else d.lockTest m.error lockThreshold

/-- The latch is free: the first waiting edge takes it (R39). -/
def Discipline.freeLatch (d : Discipline) : Discipline :=
  { d with latch := d.waiting.head?, waiting := d.waiting.tail }

/-- The end of an edge's processing: the lock test, the TIME record, CAUSE TIME on a change of state, and the latch
free (R46, R47). The record of a set-aside edge carries the state at this moment: the model's choice (log 43). -/
def completeEdge (e : Edge) (m : Measured) (correction : Correction) (applied : Bool) (freq slew : Int) (s : State) :
    State :=
  let d := s.discipline.settle e.settings.lockThreshold m correction applied
  let r : TimeRecord :=
    { event := .edge, state := d.state, stepped := applied && correction.isStep, held := correction.isHeld
      setAside := !applied, error := m.error, freq := freq, slewNs := slewNs slew, time := m.time }
  (({ s with discipline := d.freeLatch }).offerTime r).causeOnChange s.discipline.state

/-- An edge whose correction the Timebase has taken is processed to its end (R45). -/
def completeAnswered (s : State) : State :=
  match s.discipline.latch with
  | some e =>
    match e.stage with
    | .answered m correction applied freq slew => completeEdge e m correction applied freq slew s
    | .captured | .handed _ _ => s
  | none => s

/-- The settings of DISCIPLINE_SET that take effect at once (R50). -/
def Discipline.setAtOnce (d : Discipline) (p : DisciplineParams) : Discipline :=
  { d with enabled := p.enabled, polarity := p.polarity, lane := p.lane, lampPolarity := p.lampPolarity }

/-- S handed to the Timebase at once, as a DISCIPLINE_SET with enable off does (R25, R52). -/
def State.handSlewRate (s : State) : State :=
  { s with timebase := { s.timebase with slewRate := s.discipline.active.slewRate } }

/-- A DISCIPLINE_SET that changes enable from on to off (R45, R52, R53, log 19). -/
def disableDiscipline (p : DisciplineParams) (s : State) : State :=
  let t := completeAnswered s
  let d : Discipline :=
    { t.discipline.setAtOnce p with
      active := p.given.clamped, pending := none, timer := false, latch := none, waiting := [], good := 0
      state := .free }
  let u := ({ t with discipline := d } : State).handSlewRate
  if t.discipline.state = .free then u else (u.offerTime (u.eventTime .disabled)).setCause .time

/-- The change that DISCIPLINE_SET makes (R50 to R53). -/
def applyDiscipline (p : DisciplineParams) (s : State) : State :=
  if p.enabled then { s with discipline := { s.discipline.setAtOnce p with pending := some p.given.clamped } }
  else if s.discipline.enabled then disableDiscipline p s
  else
    ({ s with discipline := { s.discipline.setAtOnce p with active := p.given.clamped, pending := none } }
      : State).handSlewRate

/-- DISCIPLINE_SET carried out (R50, R172). -/
def carryDisciplineSet (slot : List Byte) (s : State) : State :=
  match disciplineParams slot with
  | none => s.answerWith .badParam []
  | some p =>
    let a := p.given.clamped
    let t := applyDiscipline p s
    t.answerWith (if a = p.given then .ok else .adjusted)
      [(48, leBytes 2 a.ppsDelay), (50, leBytes 2 a.slewRate), (52, leBytes 4 a.stepThreshold),
       (56, leBytes 4 a.lockThreshold), (60, leBytes 1 a.gain), (61, leBytes 1 t.discipline.state.code),
       (62, leBytes 1 t.discipline.good), (63, leBytes 1 (boolCode p.enabled))]

/-- PPS_EDGE (R39, R40): only the active edge has an effect, and only while the discipline is enabled. -/
def execPpsEdge (edge : EdgeKind) (within : CycleFraction) (s : State) : Host.Outcome State Fault Refusal :=
  .next (if s.discipline.enabled = true ∧ edge = s.discipline.polarity then captureEdge within s else s)

/-- EDGE_PROCESS (R42 to R44). -/
def execEdgeProcess (s : State) : Host.Outcome State Fault Refusal :=
  .next <|
    match s.discipline.latch with
    | some e => if e.stage = .captured then processEdge e s else s
    | none => s

/-- DISCIPLINE_CORRECTION (R30, R45). -/
def execDisciplineCorrection (s : State) : Host.Outcome State Fault Refusal :=
  .next <|
    match s.discipline.latch with
    | some e =>
      match e.stage with
      | .handed m correction => takeCorrection e m correction s
      | .captured | .answered _ _ _ _ _ => s
    | none => s

/-- EDGE_COMPLETE (R46, R47). -/
def execEdgeComplete (s : State) : Host.Outcome State Fault Refusal := .next (completeAnswered s)

/-- HOLDOVER_EXPIRY (R41). -/
def execHoldoverExpiry (s : State) : Host.Outcome State Fault Refusal :=
  .next (if s.holdoverDue then enterHoldover s else s)

/-- DISCIPLINE_SET, request 04h (R50). -/
def execDisciplineSet (s : State) : Host.Outcome State Fault Refusal := .next (s.carryOut 0x04 carryDisciplineSet)

end Sys2Proof.Machine
end

