-- ==== Sys2Proof/Machine/Ports.lean ====
section
/-! DEFINITION. The ingress ports: link and enable, the capture latch, end-of-frame checks, the error window and
health, PORT records, and the requests PORT_SET and PORT_READMIT (R1 to R19). -/

namespace Sys2Proof.Machine

/-- The link of a port as the Status Block and PORT_SET report it: 0 DISABLED, 1 DOWN, 2 UP (R2, R172, R174). -/
def Port.reportedLink (p : Port) : Nat :=
  if p.enabled then (match p.link with | .down => 1 | .up => 2) else 0

/-- Builds a PORT record with a window count, offers it on the notice lane in force and sets CAUSE PORT (R15). -/
def portNotice (k : PortNo) (windowCount : Nat) (s : State) : State :=
  let p := s.port k
  let r : PortRecord :=
    { port := k, link := p.link, health := p.health, windowCount := windowCount, time := s.reading }
  (s.offerOrDiscard p.settings.frame.noticeLane (.port k) (.port r)).setCause .port

/-- The frame in reception, if any, is discarded and counted as aborted (R7). -/
def abortFrame (k : PortNo) (s : State) : State :=
  let p := s.port k
  if p.latch.isSome then (s.setPort k { p with latch := none }).bump (.port k .aborted) else s

/-- A change of link state reported by the receiver (R2, R7). A report of the state already recorded is no change
and has no effect (log 14). -/
def changeLink (k : PortNo) (link : LinkState) (s : State) : State :=
  let p := s.port k
  if p.link = link then s
  else
    let t := s.setPort k { p with link := link }
    let u := if link = .down then abortFrame k t else t
    if p.enabled then portNotice k p.windowCount u else u

/-- The first byte of a frame: the latch of an ENABLED port takes the capture and the settings in force (R4, R6, log 34). -/
def latchFrame (k : PortNo) (within : CycleFraction) (s : State) : State :=
  let p := s.port k
  if p.enabled then
    s.setPort k { p with latch := some { capture := s.captureNow within, settings := p.settings.frame } }
  else s

/-! ### The FCS -/

/-- One step of the check register for one bit, in reflected order: EDB88320h is 04C11DB7h reflected (R9). -/
def crcBit (r : BitVec 32) : BitVec 32 := if r.getLsbD 0 then (r >>> 1) ^^^ 0xEDB88320 else r >>> 1

/-- The register after a byte, least significant bit first (R9). -/
def crcByte (r : BitVec 32) (b : Byte) : BitVec 32 :=
  crcBit <| crcBit <| crcBit <| crcBit <| crcBit <| crcBit <| crcBit <| crcBit <| r ^^^ b.setWidth 32

/-- The check value of a string: preset to FFFFFFFFh, complemented at the end (R9). -/
def crcOf (bytes : List Byte) : BitVec 32 := ~~~(bytes.foldl crcByte 0xFFFFFFFF)

/-- The bytes of a frame before its FCS (R9, R69). -/
def beforeFcs (bytes : List Byte) : List Byte := bytes.take (bytes.length - 4)

/-- The four FCS bytes hold the check value, least significant byte first (R9). -/
def fcsGood (bytes : List Byte) : Bool :=
  decide (bytes.drop (bytes.length - 4) = leBytes 4 (crcOf (beforeFcs bytes)).toNat)

/-! ### Health -/

/-- The health after an error that brings the window count to a non-zero threshold (R13). -/
def Health.afterThreshold (h : Health) (fence : Bool) : Health :=
  match h, fence with
  | .normal, false => .degraded
  | .normal, true => .fenced
  | .degraded, false => .degraded
  | .degraded, true => .fenced
  | .fenced, _ => .fenced

/-- The window count stops at 2^32 − 1 (R12). -/
def countUp (n : Nat) : Nat := min (n + 1) 4294967295

/-- An FCS error counted in the error window, with the change of health it may bring (R13). -/
def countError (k : PortNo) (s : State) : State :=
  let p := s.port k
  let count := countUp p.windowCount
  let t := s.setPort k { p with windowCount := count }
  let health := p.health.afterThreshold p.settings.fence
  if p.settings.threshold = 0 ∨ count < p.settings.threshold ∨ health = p.health then t
  else portNotice k count (t.setPort k { p with windowCount := count, health := health })

/-! ### ARRIVAL records -/

/-- The ARRIVAL record of a frame, no sequence given: TRUNCATED when the captured bytes are fewer than those before
the FCS, TIME_CLAMPED when the composition clamps (R11, R63, R73, R81). -/
def arrivalOf (capture : Capture) (delay : Nat) (port : PortNo) (channel : Option ChannelNo) (line : Option Line)
    (flags : ArrivalFlags) (reason : Reason) (frameLength : Nat) (captured : List Byte) : ArrivalRecord :=
  { channel := channel, port := port, line := line
    flags := { flags with truncated := decide (captured.length < frameLength - 4)
                          timeClamped := (compose capture delay).clamped }
    time := capture.dated delay, reason := reason, frameLength := frameLength, captured := captured
    msgCount := 0, first := 0, pubFirst := 0, pubCount := 0, stamp := capture.stamp }

/-- The captured bytes under a snap length: the smaller of it and the bytes before the FCS (R11). -/
def capturedBytes (snap : Nat) (bytes : List Byte) : List Byte := (beforeFcs bytes).take snap

/-- The frame's ARRIVAL record for its port's notice lane (R11, R73). -/
def Frame.notice (f : Frame) (flags : ArrivalFlags) (reason : Reason) : Record :=
  .arrival (arrivalOf f.capture f.settings.delay f.port none none flags reason f.bytes.length
    (capturedBytes f.settings.snap f.bytes))

/-! ### End of frame -/

/-- A frame with a bad FCS (R9, R11). -/
def badFrame (f : Frame) (s : State) : State :=
  let t := countError f.port (s.bump (.port f.port .fcsErrors))
  if f.settings.badFrame = .capture then
    (t.bump (.port f.port .badCaptured)).offerOrDiscard f.settings.noticeLane (.port f.port)
      (f.notice { badFcs := true } .none)
  else t

/-- A frame with a good FCS: the health check, then the handoff queue (R10). -/
def goodFrame (f : Frame) (s : State) : State :=
  let p := s.port f.port
  if p.health = .fenced then s.bump (.port f.port .fencedDiscards)
  else if p.queue.length < Config.handoffRoom then
    (s.setPort f.port { p with queue := p.queue ++ [f] }).bump (.port f.port .passed)
  else s.bump (.port f.port .overruns)

/-- The checks of a complete frame (R8 to R10). -/
def checkFrame (f : Frame) (s : State) : State :=
  if f.bytes.length < 64 then s.bump (.port f.port .runts)
  else if 9600 < f.bytes.length then s.bump (.port f.port .giants)
  else if fcsGood f.bytes then goodFrame f s
  else badFrame f s

/-- The normal end of the frame in reception (R7). With no frame latched there is none to check. -/
def endFrame (k : PortNo) (bytes : List Byte) (s : State) : State :=
  let p := s.port k
  match p.latch with
  | some latch =>
    checkFrame { port := k, bytes := bytes, capture := latch.capture, settings := latch.settings }
      (s.setPort k { p with latch := none })
  | none => s

/-! ### The error window -/

/-- The end of the error window that began at a count: recovery, count cleared, new window (R12, R14). -/
def endWindow (k : PortNo) (start : Count) (s : State) : State :=
  let p := s.port k
  let next := { p with windowStart := some (start + BitVec.ofNat 64 Config.errorWindow), windowCount := 0 }
  if p.health = .degraded ∧ (p.settings.threshold = 0 ∨ p.windowCount < p.settings.threshold) then
    portNotice k p.windowCount (s.setPort k { next with health := .normal })
  else s.setPort k next

/-- The count has reached the end of the window that began at a count (R12). -/
def windowOver (now start : Count) : Bool := reached now (start + BitVec.ofNat 64 Config.errorWindow)

/-! ### Requests -/

/-- The port with new settings, its enable state aside; the snap length as applied (R18). -/
def Port.withSettings (p : Port) (given : PortSettings) : Port :=
  { p with settings := { given with frame := { given.frame with snap := appliedSnap given.frame.snap } } }

/-- DISABLED to ENABLED (R3). -/
def enablePort (k : PortNo) (s : State) : State :=
  let p := s.port k
  portNotice k 0 (s.setPort k { p with enabled := true, windowStart := some s.count, windowCount := 0 })

/-- ENABLED to DISABLED (R3). -/
def disablePort (k : PortNo) (s : State) : State :=
  let t := abortFrame k s
  t.setPort k { t.port k with enabled := false, windowStart := none, windowCount := 0 }

/-- The changes that PORT_SET makes, all at one moment (R3, R18). -/
def applyPort (p : PortParams) (s : State) : State :=
  let t := s.setPort p.port ((s.port p.port).withSettings p.settings)
  if p.enabled = (s.port p.port).enabled then t
  else if p.enabled then enablePort p.port t
  else disablePort p.port t

/-- PORT_SET carried out (R18, R172). -/
def carryPortSet (slot : List Byte) (s : State) : State :=
  match portParams slot with
  | none => s.answerWith .badParam []
  | some p =>
    let t := applyPort p s
    let given := p.settings.frame.snap
    t.answerWith (if appliedSnap given = given then .ok else .adjusted)
      [(48, leBytes 2 (appliedSnap given)), (50, leBytes 1 (t.port p.port).reportedLink),
       (51, leBytes 1 (t.port p.port).health.code)]

/-- A FENCED port becomes NORMAL; on an ENABLED port a new window begins and a PORT record is built (R19). -/
def readmit (k : PortNo) (s : State) : State :=
  let p := s.port k
  if p.health = .fenced then
    if p.enabled then
      portNotice k 0 (s.setPort k { p with health := .normal, windowStart := some s.count, windowCount := 0 })
    else s.setPort k { p with health := .normal }
  else s

/-- PORT_READMIT carried out (R19, R172). -/
def carryPortReadmit (slot : List Byte) (s : State) : State :=
  match portNo? (slotField slot 8 1) with
  | none => s.answerWith .badParam []
  | some k =>
    let t := readmit k s
    t.answerWith .ok [(48, leBytes 1 (t.port k).health.code)]

/-- LINK_CHANGE (R2). -/
def execLinkChange (k : PortNo) (link : LinkState) (s : State) : Host.Outcome State Fault Refusal :=
  .next (changeLink k link s)

/-- FRAME_FIRST_BYTE (R4). -/
def execFrameFirstByte (k : PortNo) (within : CycleFraction) (s : State) : Host.Outcome State Fault Refusal :=
  .next (latchFrame k within s)

/-- END_OF_FRAME (R7). -/
def execEndOfFrame (k : PortNo) (bytes : List Byte) (s : State) : Host.Outcome State Fault Refusal :=
  .next (endFrame k bytes s)

/-- ERROR_WINDOW_END (R12). -/
def execErrorWindowEnd (k : PortNo) (s : State) : Host.Outcome State Fault Refusal :=
  .next <|
    match (s.port k).windowStart with
    | some start => if windowOver s.count start then endWindow k start s else s
    | none => s

/-- PORT_SET, request 10h (R18). -/
def execPortSet (s : State) : Host.Outcome State Fault Refusal := .next (s.carryOut 0x10 carryPortSet)

/-- PORT_READMIT, request 11h (R19). -/
def execPortReadmit (s : State) : Host.Outcome State Fault Refusal := .next (s.carryOut 0x11 carryPortReadmit)

end Sys2Proof.Machine
end

