-- ==== Sys2Proof/Machine/Classifier.lean ====
section
/-! DEFINITION. The Classifier: header parsing, address maps, the marker pattern pool, extraction, unmapped and
foreign frames, and its requests (R68 to R85). -/

namespace Sys2Proof.Machine

/-! ### Header parsing -/

/-- What the parse of an accepted frame yields (R70). -/
structure Parsed where
  key : Key
  payload : List Byte
  deriving DecidableEq, Repr

/-- A big-endian number in the frame, missing when it reaches past the end (R69). -/
def beField? (bs : List Byte) (offset length : Nat) : Option Nat := (field? bs offset length).map beNat

/-- The offset at which the IPv4 header begins, none for any other shape (R69). -/
def ipOffset (bs : List Byte) : Option Nat :=
  if beField? bs 12 2 = some 0x0800 then some 14
  else if beField? bs 12 2 = some 0x8100 ∧ beField? bs 16 2 = some 0x0800 then some 18
  else none

/-- The IPv4 header at offset h is one the part accepts; the answer is the offset of the UDP header (R70). -/
def udpOffset (bs : List Byte) (h : Nat) : Option Nat := do
  let first ← beField? bs h 1
  let headerLength := first % 16 * 4
  let _ ← if first / 16 = 4 ∧ 20 ≤ headerLength then field? bs h headerLength else none
  let fragment ← beField? bs (h + 6) 2
  let protocol ← beField? bs (h + 9) 1
  if fragment.testBit 13 = false ∧ fragment % 8192 = 0 ∧ protocol = 17 then some (h + headerLength) else none

/-- The parse of the bytes before the FCS; none is NOT_UDP (R69, R70). -/
def parseFrame (bs : List Byte) : Option Parsed := do
  let h ← ipOffset bs
  let u ← udpOffset bs h
  let _ ← field? bs u 8
  let udpLength ← beField? bs (u + 4) 2
  let address ← beField? bs (h + 16) 4
  let udpPort ← beField? bs (u + 2) 2
  if 8 ≤ udpLength then
    some { key := { address := BitVec.ofNat 32 address, udpPort := BitVec.ofNat 16 udpPort }
           payload := (bs.drop (u + 8)).take (udpLength - 8) }
  else none

/-! ### Address maps -/

/-- The index of the entry that holds a key (R71). -/
def mapIndex (m : AddressMap) (key : Key) : Option (Fin 64) :=
  (List.finRange 64).find? fun i => decide ((m[i]).map MapEntry.key = some key)

/-- The entry that holds a key (R72). -/
def mapEntry (m : AddressMap) (key : Key) : Option MapEntry := (mapIndex m key).bind fun i => m[i]

/-- The lowest index that no entry holds (R71). -/
def lowestFree (m : AddressMap) : Option (Fin 64) := (List.finRange 64).find? fun i => (m[i]).isNone

/-- The map holds the key with another channel or line (R74). -/
def mapConflicts (m : AddressMap) (e : MapEntry) : Bool :=
  match mapEntry m e.key with
  | some held => decide (held.channel ≠ e.channel ∨ held.line ≠ e.line)
  | none => false

/-- The map holds 64 entries and not the key (R74). -/
def mapFull (m : AddressMap) (key : Key) : Bool := (mapIndex m key).isNone && (lowestFree m).isNone

/-- A new entry at the lowest free index, unless the map holds the key (R75). -/
def mapInstall (m : AddressMap) (e : MapEntry) : AddressMap :=
  if (mapIndex m e.key).isSome then m
  else match lowestFree m with
    | some i => m.set i (some e)
    | none => m

/-- The map without the entry that holds a key (R76). -/
def mapDelete (m : AddressMap) (key : Key) : AddressMap :=
  match mapIndex m key with
  | some i => m.set i none
  | none => m

/-- A change of the maps of a set of ports, all at one moment (R71). -/
def changeMaps (ports : List PortNo) (change : AddressMap → AddressMap) (s : State) : State :=
  ports.foldl (fun t k => t.setMap k (change (t.map k))) s

/-! ### Checking and reading the payload -/

/-- The marker check (R79): none when it passes, else the reason the frame is foreign. -/
def markerCheck (pool payload : List Byte) (m : Marker) : Option Reason :=
  if m.length = 0 then none
  else if payload.length < m.offset + m.length then some .short
  else if fieldAt payload m.offset m.length = fieldAt pool m.index m.length then none
  else some .marker

/-- The number a locator reads from a payload; none when the field reaches past its end (R80). -/
def Locator.read (x : Locator) (payload : List Byte) : Option Nat :=
  (field? payload x.offset x.width).map fun bs =>
    match x.order with
    | .big => beNat bs
    | .little => leNat bs

/-- The sequence and message count of a payload; none is SHORT (R80). -/
def extract (c : ChannelSettings) (payload : List Byte) : Option (Nat × Nat) := do
  let s ← c.sequence.read payload
  let n ← match c.msgCount with
    | none => some 1
    | some x => x.read payload
  some (s, n)

/-- The three ways in which a classification ends (R68). -/
inductive Verdict where
  | unmapped (reason : Reason)
  | foreign (entry : MapEntry) (reason : Reason)
  | classified (entry : MapEntry) (s c : Nat)
  deriving DecidableEq, Repr

/-- The marker check and extraction of a frame that hit an ON channel (R79, R80). -/
def verdictOn (s : State) (entry : MapEntry) (payload : List Byte) : Verdict :=
  let c := (s.channel entry.channel).settings
  match markerCheck s.patterns.toList payload c.marker with
  | some reason => .foreign entry reason
  | none =>
    match extract c payload with
    | none => .foreign entry .short
    | some (sequence, n) => .classified entry sequence n

/-- The classification of a frame (R69 to R72, R79, R80). -/
def verdictOf (s : State) (f : Frame) : Verdict :=
  match parseFrame (beforeFcs f.bytes) with
  | none => .unmapped .notUdp
  | some p =>
    match mapEntry (s.map f.port) p.key with
    | none => .unmapped .noMap
    | some entry => if (s.channel entry.channel).on then verdictOn s entry p.payload else .unmapped .channelOff

/-- The counter of an unmapped frame (R73, R87). -/
def unmappedCounter (k : PortNo) : Reason → Counter
  | .notUdp => .classifierPort k .notUdp
  | .noMap => .classifierPort k .noMap
  | .channelOff | .none | .marker | .short => .classifierPort k .channelOff

/-- The counter of a foreign frame (R81, R87). -/
def foreignCounter (ch : ChannelNo) : Reason → Counter
  | .marker => .classifierChannel ch .foreignMarker
  | .short | .none | .notUdp | .noMap | .channelOff => .classifierChannel ch .foreignShort

/-- An unmapped frame is counted and follows the policy it carried (R73). -/
def setAsideUnmapped (f : Frame) (reason : Reason) (s : State) : State :=
  let t := s.bump (unmappedCounter f.port reason)
  if f.settings.unmapped = .capture then
    t.offerOrDiscard f.settings.noticeLane (.port f.port) (f.notice { unmapped := true } reason)
  else t

/-- A foreign frame is counted and follows the channel's reject policy (R81). -/
def setAsideForeign (f : Frame) (entry : MapEntry) (reason : Reason) (s : State) : State :=
  let t := s.bump (foreignCounter entry.channel reason)
  let c := (s.channel entry.channel).settings
  if c.reject = .capture then
    t.offer c.lane (.classifier f.port entry.channel)
      (.arrival (arrivalOf f.capture f.settings.delay f.port (some entry.channel) (some entry.line)
        { foreign := true } reason f.bytes.length (capturedBytes c.snap f.bytes)))
  else t

/-- A classified frame enters the Table's input and is counted (R82). -/
def enterInput (f : Classified) (s : State) : State :=
  (s.setInput f.port (some f)).bump (.classifierChannel f.channel .classified)

/-- A classified frame is handed to the Table's input, or waits for room there (R68, R82, R92, log 22). -/
def handToTable (f : Classified) (s : State) : State :=
  if (s.inputOf f.port).isSome then s.setWaiting f.port (some f) else enterInput f s

/-- The classified frame (R82). -/
def classifiedOf (s : State) (f : Frame) (entry : MapEntry) (sequence n : Nat) : Classified :=
  let c := s.channel entry.channel
  { port := f.port, channel := entry.channel, line := entry.line, run := c.run, s := sequence, c := n
    frameLength := f.bytes.length, captured := capturedBytes c.settings.snap f.bytes, capture := f.capture
    delay := f.settings.delay }

/-- The whole classification of a frame (R68). -/
def classify (f : Frame) (s : State) : State :=
  match verdictOf s f with
  | .unmapped reason => setAsideUnmapped f reason s
  | .foreign entry reason => setAsideForeign f entry reason s
  | .classified entry sequence n => handToTable (classifiedOf s f entry sequence n) s

/-- The Classifier takes the head of a port's handoff queue, unless a classified frame of the port still waits for
room at the Table's input (R68). -/
def classifyHead (k : PortNo) (s : State) : State :=
  let p := s.port k
  match s.waitingOf k, p.queue with
  | none, f :: rest => classify f (s.setPort k { p with queue := rest })
  | none, [] | some _, _ => s

/-! ### Requests -/

/-- The lowest-numbered port of a set, given in rising order, that meets a test (R74). -/
def firstPort (ports : List PortNo) (test : PortNo → Bool) : Option PortNo := ports.find? test

/-- The result of a refused MAP_ADD (R74, R173). -/
def mapFailure (k : PortNo) : List (Nat × List Byte) :=
  [(48, leBytes 1 0xFF), (49, leBytes 1 0), (50, leBytes 1 k)]

/-- MAP_ADD carried out (R74, R75, R173). -/
def carryMapAdd (slot : List Byte) (s : State) : State :=
  match mapAddParams slot with
  | none => s.answerWith .badParam []
  | some p =>
    match firstPort p.ports fun k => mapConflicts (s.map k) p.entry with
    | some k => s.answerWith .conflict (mapFailure k)
    | none =>
      match firstPort p.ports fun k => mapFull (s.map k) p.entry.key with
      | some k => s.answerWith .mapFull (mapFailure k)
      | none =>
        let fresh := p.ports.countP fun k => (mapIndex (s.map k) p.entry.key).isNone
        let t := changeMaps p.ports (fun m => mapInstall m p.entry) s
        let index := ((mapIndex (t.map p.report) p.entry.key).map Fin.val).getD 0xFF
        t.answerWith .ok [(48, leBytes 1 index), (49, leBytes 1 fresh), (50, leBytes 1 0xFF)]

/-- MAP_REMOVE carried out (R76, R173). -/
def carryMapRemove (slot : List Byte) (s : State) : State :=
  let ports := portSet (slotField slot 8 1)
  let key := slotKey slot
  let held := ports.countP fun k => (mapIndex (s.map k) key).isSome
  if ports = [] then s.answerWith .badParam []
  else if held = 0 then s.answerWith .notFound [(48, leBytes 1 0)]
  else (changeMaps ports (fun m => mapDelete m key) s).answerWith .ok [(48, leBytes 1 held)]

/-- Bytes put into the pool from an offset on (R77). -/
def loadPattern (pool : Vector Byte 256) : Nat → List Byte → Vector Byte 256
  | _, [] => pool
  | offset, b :: bs => loadPattern (pool.setIfInBounds offset b) (offset + 1) bs

/-- PATTERN_LOAD carried out (R77, R173). -/
def carryPatternLoad (slot : List Byte) (s : State) : State :=
  let offset := slotField slot 8 2
  let n := slotField slot 10 1
  if n = 0 ∨ 32 < n ∨ 256 < offset + n then s.answerWith .badParam []
  else
    ({ s with patterns := loadPattern s.patterns offset (fieldAt slot 16 n) }).answerWith .ok
      [(48, leBytes 2 offset), (50, leBytes 1 n)]

/-- CHANNEL_SET carried out, in its three stages (R83, R84, R173). -/
def carryChannelSet (slot : List Byte) (s : State) : State :=
  match channelNo? (slotField slot 8 2) with
  | none => s.answerWith .badParam []
  | some ch =>
    if (s.channel ch).on then s.answerWith .busy []
    else
      match channelParams slot with
      | none => s.answerWith .badParam []
      | some given =>
        let a := given.applied
        (s.setChannel ch { s.channel ch with settings := a }).answerWith (if a = given then .ok else .adjusted)
          [(48, leBytes 2 a.snap), (50, leBytes 2 a.partnerWindow), (52, leBytes 2 a.gapWindow),
           (54, leBytes 2 a.entryCap), (56, leBytes 8 a.resyncLimit)]

/-- CHANNEL_START carried out (R85). -/
def carryChannelStart (slot : List Byte) (s : State) : State :=
  match channelNo? (slotField slot 8 2) with
  | none => s.answerWith .badParam []
  | some ch =>
    let c := s.channel ch
    if c.on then s.answerWith .busy []
    else
      (s.setChannel ch { c with on := true, run := c.run + 1, nextSeq := none }).answerWith .ok
        [(48, leBytes 4 (c.run + 1).toNat)]

/-- CLASSIFY_FRAME (R68). -/
def execClassifyFrame (k : PortNo) (s : State) : Host.Outcome State Fault Refusal := .next (classifyHead k s)

/-- MAP_ADD, request 20h (R74). -/
def execMapAdd (s : State) : Host.Outcome State Fault Refusal := .next (s.carryOut 0x20 carryMapAdd)

/-- MAP_REMOVE, request 21h (R76). -/
def execMapRemove (s : State) : Host.Outcome State Fault Refusal := .next (s.carryOut 0x21 carryMapRemove)

/-- PATTERN_LOAD, request 22h (R77). -/
def execPatternLoad (s : State) : Host.Outcome State Fault Refusal := .next (s.carryOut 0x22 carryPatternLoad)

/-- CHANNEL_SET, request 23h (R83). -/
def execChannelSet (s : State) : Host.Outcome State Fault Refusal := .next (s.carryOut 0x23 carryChannelSet)

/-- CHANNEL_START, request 24h (R85). -/
def execChannelStart (s : State) : Host.Outcome State Fault Refusal := .next (s.carryOut 0x24 carryChannelStart)

end Sys2Proof.Machine
end

