-- ==== Sys2Proof/Machine/Arbitration.lean ====
section
/-! DEFINITION. The Line-Pair Arbitration Table and the Expiry Queue: the outcome of each classified frame, pairing
entries, deadlines, eviction and flushing, and CHANNEL_STOP (R82, R86, R89 to R127). -/

namespace Sys2Proof.Machine

/-! ### The queue order -/

/-- Deadline a comes before deadline b (R115). -/
def deadlineBefore (a b : Count) : Bool := decide (1 ≤ (b - a).toNat ∧ (b - a).toNat ≤ 2 ^ 63 - 1)

/-- Creation order a comes before creation order b (R115). -/
def orderBefore (a b : BitVec 32) : Bool := decide (1 ≤ (b - a).toNat ∧ (b - a).toNat ≤ 2 ^ 31 - 1)

/-- Entry a stands before entry b in the Expiry Queue (R115). -/
def Entry.before (a b : Entry) : Bool :=
  deadlineBefore a.deadline b.deadline || (decide (a.deadline = b.deadline) && orderBefore a.order b.order)

/-- An entry joins the queue at its place (R115). -/
def insertEntry (e : Entry) : List Entry → List Entry
  | [] => [e]
  | x :: xs => if e.before x then e :: x :: xs else x :: insertEntry e xs

/-! ### Removal and its records -/

/-- Microseconds held since a capture, rounded down and saturated (R118, R119). -/
def heldSince (now origin : Count) : Nat :=
  min 4294967295 ((now - origin).toNat / Config.cyclesPerMicrosecond)

/-- The capture count that an entry's held time is measured from: the winner's, or the revealing frame's, which is
the deadline less the gap window (R118, R119). -/
def Entry.origin (e : Entry) (c : ChannelSettings) : Count :=
  match e.kind with
  | .await w => w.stamp.n
  | .gap _ => e.deadline - microseconds c.gapWindow

/-- The GAP or LINE_MISS record of an entry that leaves at an oscillator count (R118, R119). -/
def Entry.leaving (e : Entry) (c : ChannelSettings) (now : Count) (why : Removal) : Record :=
  match e.kind with
  | .await w =>
    .lineMiss { channel := e.channel, port := w.port, line := w.line, removal := why, time := w.time, first := e.first
                count := e.count, reached := reached now e.deadline, held := heldSince now (e.origin c) }
  | .gap o =>
    .gap { channel := e.channel, port := o.port, removal := why, time := o.time, first := e.first, count := e.count
           reached := reached now e.deadline, held := heldSince now (e.origin c) }

/-- The counter of an entry's record (R127). -/
def Entry.lossCounter (e : Entry) : Counter :=
  match e.kind with
  | .await _ => .expiry e.channel .lineMisses
  | .gap _ => .expiry e.channel .gaps

/-- Builds the record of an entry that leaves, offers it on its channel's lane and counts it (R120, R127). -/
def reportEntry (e : Entry) (why : Removal) (frame : Option FrameTag) (s : State) : State :=
  let c := (s.channel e.channel).settings
  (s.offer c.lane (.table e.channel frame) (e.leaving c s.count why)).bump e.lossCounter

/-- An entry leaves the pool, the queue and its channel, and is reported (R117, R122, R125). -/
def removeEntry (e : Entry) (why : Removal) (frame : Option FrameTag) (s : State) : State :=
  reportEntry e why frame { s with entries := s.entries.erase e }

/-- An eviction by a frame (R122, R127). -/
def evictEntry (e : Entry) (frame : FrameTag) (s : State) : State :=
  (removeEntry e .evicted (some frame) s).bump (.expiry e.channel .evictions)

/-! ### A channel's collection -/

/-- How far a sequence number stands behind NextSeq, modulo M (00 Sequence arithmetic). -/
def behindBy (modulus next first : Nat) : Nat := (next + (modulus - first % modulus)) % modulus

/-- The entries of a channel (R91). -/
def State.channelEntries (s : State) (ch : ChannelNo) : List Entry :=
  s.entries.filter fun e => decide (e.channel = ch)

/-- An entry put in the order of R91: farthest behind NextSeq first. -/
def insertFarthest (modulus next : Nat) (e : Entry) : List Entry → List Entry
  | [] => [e]
  | x :: xs =>
    if behindBy modulus next x.first < behindBy modulus next e.first then e :: x :: xs
    else x :: insertFarthest modulus next e xs

/-- Entries in the order of R91. -/
def farthestFirst (modulus next : Nat) (es : List Entry) : List Entry := es.foldr (insertFarthest modulus next) []

/-- A channel's entries in the order of R91. -/
def State.collection (s : State) (ch : ChannelNo) : List Entry :=
  let c := s.channel ch
  farthestFirst c.settings.modulus (c.nextSeq.getD 0) (s.channelEntries ch)

/-- Entries leave as FLUSHED records, in the order given, by a frame or by a CHANNEL_STOP (R110, R125). -/
def flushEntries (frame : Option FrameTag) (es : List Entry) (s : State) : State :=
  es.foldl (fun t e => removeEntry e .flushed frame t) s

/-- The entry of a channel whose range contains a sequence number (R100). -/
def State.entryWith (s : State) (ch : ChannelNo) (sequence : Nat) : Option Entry :=
  (s.channelEntries ch).find? fun e =>
    decide (behindBy (s.channel ch).settings.modulus sequence e.first < e.count)

/-! ### Obtaining an entry -/

/-- Creates an entry with a fresh creation order (R90, R115). -/
def createEntry (e : Entry) (s : State) : State :=
  { s with entries := insertEntry { e with order := s.nextOrder } s.entries, nextOrder := s.nextOrder + 1 }

/-- The requested entry is not created and leaves at once (R123). -/
def emitAtOnce (frame : FrameTag) (e : Entry) (s : State) : State :=
  (reportEntry e .evicted (some frame) s).bump (.expiry e.channel .evictions)

/-- The first candidate for eviction in queue order: never the GAP entry being filled, which is named by its
creation order (R122). -/
def State.candidate (s : State) (filling : Option (BitVec 32)) (among : Entry → Bool) : Option Entry :=
  s.entries.find? fun x => among x && decide (some x.order ≠ filling)

/-- A frame of a channel asks for an entry: the channel at its cap, the pool full, or room (R121 to R124). -/
def requestEntry (frame : FrameTag) (e : Entry) (filling : Option (BitVec 32)) (s : State) : State :=
  if (s.channel e.channel).settings.entryCap ≤ (s.channelEntries e.channel).length then
    match s.candidate filling fun x => decide (x.channel = e.channel) with
    | some v => createEntry e (evictEntry v frame s)
    | none => emitAtOnce frame e s
  else if Config.poolSize ≤ s.entries.length then
    match s.candidate filling fun _ => true with
    | some v => createEntry e ((evictEntry v frame s).bump .poolFull)
    | none => emitAtOnce frame e s
  else createEntry e s

/-- The AWAIT entry of a publication, its creation order not yet drawn (R90, R97). -/
def Classified.awaitEntry (f : Classified) (c : ChannelSettings) (first k : Nat) : Entry :=
  { channel := f.channel
    kind := .await { line := f.line, port := f.port, stamp := f.capture.stamp, delay := f.delay
                     time := f.capture.dated f.delay }
    first := first, count := k, deadline := f.capture.stamp.n + microseconds c.partnerWindow, order := 0 }

/-- The GAP entry that a frame reveals, its creation order not yet drawn (R90, R96). -/
def Classified.gapEntry (f : Classified) (c : ChannelSettings) (first k : Nat) : Entry :=
  { channel := f.channel, kind := .gap { port := f.port, time := f.capture.dated f.delay }
    first := first, count := k, deadline := f.capture.stamp.n + microseconds c.gapWindow, order := 0 }

/-! ### Records of a classified frame -/

/-- What tells the frame from every other in its records (R110). -/
def Classified.tag (f : Classified) (s : State) : FrameTag :=
  { port := f.port, stamp := f.capture.stamp, lane := (s.channel f.channel).settings.lane }

/-- The ARRIVAL record of a classified frame (R97, R106, R107). -/
def Classified.arrival (f : Classified) (flags : ArrivalFlags) (pubFirst pubCount : Nat) : Record :=
  .arrival
    { arrivalOf f.capture f.delay f.port (some f.channel) (some f.line) flags .none f.frameLength f.captured with
      msgCount := f.c, first := f.s, pubFirst := pubFirst, pubCount := pubCount }

/-- Offers a record of a frame on its channel's lane (R110). -/
def offerOwn (f : Classified) (r : Record) (s : State) : State :=
  s.offer (s.channel f.channel).settings.lane (.table f.channel (some (f.tag s))) r

/-- Publishes a range: the AWAIT entry in PAIRED mode, then the ARRIVAL record; the published counter gains 1
(R97, R109, R110). -/
def publish (f : Classified) (flags : ArrivalFlags) (first k : Nat) (filling : Option (BitVec 32)) (s : State) :
    State :=
  let c := (s.channel f.channel).settings
  let t := if c.mode = .paired then requestEntry (f.tag s) (f.awaitEntry c first k) filling s else s
  (offerOwn f (f.arrival { flags with published := true } first k) t).bump (.table f.channel .published)

/-- Sets a channel's NextSeq (R89). -/
def setNext (ch : ChannelNo) (next : Option Nat) (s : State) : State :=
  s.setChannel ch { s.channel ch with nextSeq := next }

/-- The first sequence after a frame's range: e + 1 modulo M, which is s for a heartbeat (R93, R108). -/
def Classified.after (f : Classified) (modulus : Nat) : Nat := (f.s + f.c) % modulus

/-- Entries that an advance of NextSeq would pass over leave first, as FLUSHED records (R110). -/
def passOver (f : Classified) (next newNext : Nat) (s : State) : State :=
  let modulus := (s.channel f.channel).settings.modulus
  let advance := behindBy modulus newNext next
  flushEntries (some (f.tag s))
    ((s.collection f.channel).filter fun e => decide (modulus / 2 < behindBy modulus next e.first + advance)) s

/-! ### The cases of a frame -/

/-- The cases of R93. -/
inductive Sorted where
  | start
  | heartbeat
  | inOrder
  | ahead (a : Nat)
  | resync (direction : Direction)
  | straddle (b : Nat)
  | whollyBehind (b : Nat)
  deriving DecidableEq, Repr

/-- Whether a distance d from NextSeq exceeds the resync limit, and in which direction (R93). -/
def beyondLimit (modulus limit d : Nat) : Option Direction :=
  if d = 0 then none
  else if d < modulus / 2 then (if limit < d then some .ahead else none)
  else if limit < modulus - d then some .behind
  else none

/-- The case of a frame: the first row of R93's table that applies. -/
def sortFrame (c : ChannelSettings) (next : Option Nat) (f : Classified) : Sorted :=
  match next with
  | none => .start
  | some next =>
    let d := behindBy c.modulus f.s next
    if f.c = 0 then .heartbeat
    else if d = 0 then .inOrder
    else
      match beyondLimit c.modulus c.resyncLimit d with
      | some direction => .resync direction
      | none =>
        if d < c.modulus / 2 then .ahead d
        else if c.modulus - d < f.c then .straddle (c.modulus - d)
        else .whollyBehind (c.modulus - d)

/-- The heartbeat's ARRIVAL record (R107, R108). -/
def heartbeatRecord (f : Classified) (flags : ArrivalFlags) (s : State) : State :=
  offerOwn f (f.arrival { flags with heartbeat := true } 0 0) s

/-- The first frame of a run (R94). -/
def takeStart (f : Classified) (modulus : Nat) (s : State) : State :=
  setNext f.channel (some (f.after modulus)) <|
    if f.c = 0 then heartbeatRecord f {} s else publish f {} f.s f.c none s

/-- A frame in order (R95). -/
def takeInOrder (f : Classified) (modulus next : Nat) (s : State) : State :=
  setNext f.channel (some (f.after modulus)) <|
    publish f {} f.s f.c none (passOver f next (f.after modulus) s)

/-- A gap revealed by a frame or heartbeat ahead by a: entries passed over leave, then the GAP entry is requested
(R96, R108, R110). -/
def revealGap (f : Classified) (modulus next a : Nat) (s : State) : State :=
  requestEntry (f.tag s) (f.gapEntry (s.channel f.channel).settings next a) none
    (passOver f next (f.after modulus) s)

/-- A frame ahead by a (R96). -/
def takeAhead (f : Classified) (modulus next a : Nat) (s : State) : State :=
  setNext f.channel (some (f.after modulus)) <| publish f {} f.s f.c none (revealGap f modulus next a s)

/-- A resync (R98, R108). -/
def takeResync (f : Classified) (modulus next : Nat) (direction : Direction) (s : State) : State :=
  let es := s.collection f.channel
  let t := flushEntries (some (f.tag s)) es s
  let r : ResyncRecord :=
    { channel := f.channel, port := f.port, line := f.line, time := t.reading, oldNext := next
      newNext := f.after modulus, direction := direction, flushed := es.length }
  let u := offerOwn f (.resync r) t
  let v := if f.c = 0 then heartbeatRecord f { resync := true } u else publish f { resync := true } f.s f.c none u
  (setNext f.channel (some (f.after modulus)) v).bump (.table f.channel .resyncs)

/-- A frame that straddles NextSeq, b sequences behind it (R99). -/
def takeStraddle (f : Classified) (modulus next b : Nat) (s : State) : State :=
  setNext f.channel (some (f.after modulus)) <|
    publish f { isPartial := true } next (f.c - b) none (passOver f next (f.after modulus) s)

/-- A heartbeat with NextSeq set (R108). -/
def takeHeartbeat (f : Classified) (modulus next : Nat) (s : State) : State :=
  let d := behindBy modulus f.s next
  match beyondLimit modulus (s.channel f.channel).settings.resyncLimit d with
  | some direction => takeResync f modulus next direction s
  | none =>
    if d = 0 then heartbeatRecord f {} s
    else if d < modulus / 2 then
      setNext f.channel (some (f.after modulus)) (heartbeatRecord f {} (revealGap f modulus next d s))
    else (heartbeatRecord f { stale := true } s).bump (.table f.channel .stale)

/-- A duplicate or stale frame follows the reject policy (R106). -/
def rejectFrame (f : Classified) (flags : ArrivalFlags) (s : State) : State :=
  if (s.channel f.channel).settings.reject = .capture then offerOwn f (f.arrival flags 0 0) s else s

/-- The pool with an entry changed in place, found by its creation order (R101). -/
def replaceEntry (entries : List Entry) (old new : Entry) : List Entry :=
  entries.map fun e => if e = old then new else e

/-- A frame fills a GAP entry (R101). -/
def takeFill (f : Classified) (e : Entry) (modulus : Nat) (s : State) : State :=
  let below := behindBy modulus f.s e.first
  let k := min f.c (e.count - below)
  let above := e.count - below - k
  let upperFirst := (f.s + k) % modulus
  if below = 0 ∧ above = 0 then
    publish f { fill := true } f.s k none { s with entries := s.entries.erase e }
  else if above = 0 then
    publish f { fill := true } f.s k (some e.order)
      { s with entries := replaceEntry s.entries e { e with count := below } }
  else if below = 0 then
    publish f { fill := true } f.s k (some e.order)
      { s with entries := replaceEntry s.entries e { e with first := upperFirst, count := above } }
  else
    publish f { fill := true } f.s k (some e.order) <|
      requestEntry (f.tag s) { e with first := upperFirst, count := above } (some e.order)
        { s with entries := replaceEntry s.entries e { e with count := below } }

/-- The PARTNER record (R102). -/
def partnerRecord (f : Classified) (e : Entry) (w : Winner) : PartnerRecord :=
  let lead := leadOf w.stamp w.delay f.capture.stamp f.delay
  { channel := f.channel, port := f.port, line := f.line, misaligned := decide (f.s ≠ e.first ∨ f.c ≠ e.count)
    inverted := decide (lead < 0), time := f.capture.dated f.delay, first := f.s, count := f.c, lead := lead
    winnerPort := w.port }

/-- A frame partners the winner of an AWAIT entry (R102). -/
def takePartner (f : Classified) (e : Entry) (w : Winner) (s : State) : State :=
  let t := offerOwn f (.partner (partnerRecord f e w)) s
  ({ t with entries := t.entries.erase e }).bump (.table f.channel .partners)

/-- A frame wholly behind NextSeq: fill, partner, duplicate or stale (R100, R104, R105). -/
def takeBehind (f : Classified) (modulus : Nat) (s : State) : State :=
  match s.entryWith f.channel f.s with
  | some e =>
    match e.kind with
    | .gap _ => takeFill f e modulus s
    | .await w =>
      if w.line = f.line then rejectFrame f { duplicate := true } (s.bump (.table f.channel .duplicates))
      else takePartner f e w s
  | none => rejectFrame f { stale := true } (s.bump (.table f.channel .stale))

/-- A classified frame of the channel's present run, sorted and taken (R93). -/
def arbitrate (f : Classified) (s : State) : State :=
  let c := s.channel f.channel
  let modulus := c.settings.modulus
  let next := c.nextSeq.getD 0
  match sortFrame c.settings c.nextSeq f with
  | .start => takeStart f modulus s
  | .heartbeat => takeHeartbeat f modulus next s
  | .inOrder => takeInOrder f modulus next s
  | .ahead a => takeAhead f modulus next a s
  | .resync direction => takeResync f modulus next direction s
  | .straddle b => takeStraddle f modulus next b s
  | .whollyBehind _ => takeBehind f modulus s

/-- The Table takes a classified frame: the run check, then arbitration (R82, R92). -/
def takeClassified (f : Classified) (s : State) : State :=
  let c := s.channel f.channel
  if c.on = false ∨ c.run ≠ f.run then s.bump (.classifierChannel f.channel .stopDiscards) else arbitrate f s

/-- A port's next classified frame enters the input once the Table has taken the one before it (R68, R92). -/
def refillInput (k : PortNo) (s : State) : State :=
  match s.waitingOf k with
  | some f => enterInput f (s.setWaiting k none)
  | none => s

/-- The Table takes a port's frame from its input (R92). -/
def takeInput (k : PortNo) (s : State) : State :=
  match s.inputOf k with
  | some f => refillInput k (takeClassified f (s.setInput k none))
  | none => s

/-- The Table takes the expiry of the head of the queue when it is due (R117). -/
def takeExpiry (s : State) : State :=
  match s.entries with
  | e :: _ => if reached s.count e.deadline then removeEntry e .expired none s else s
  | [] => s

/-- An ON channel is stopped: OFF, its entries flushed, NextSeq unset (R86). -/
def stopChannel (ch : ChannelNo) (s : State) : State :=
  let t := flushEntries none (s.collection ch) s
  t.setChannel ch { t.channel ch with on := false, nextSeq := none }

/-- CHANNEL_STOP carried out (R86). -/
def carryChannelStop (slot : List Byte) (s : State) : State :=
  match channelNo? (slotField slot 8 2) with
  | none => s.answerWith .badParam []
  | some ch =>
    if (s.channel ch).on then (stopChannel ch s).answerWith .ok [(48, leBytes 2 (s.channelEntries ch).length)]
    else s.answerWith .ok [(48, leBytes 2 0)]

/-- TABLE_TAKE_FRAME (R92). -/
def execTableTakeFrame (k : PortNo) (s : State) : Host.Outcome State Fault Refusal := .next (takeInput k s)

/-- EXPIRY (R117). -/
def execExpiry (s : State) : Host.Outcome State Fault Refusal := .next (takeExpiry s)

/-- CHANNEL_STOP, request 25h (R86). -/
def execChannelStop (s : State) : Host.Outcome State Fault Refusal := .next (s.carryOut 0x25 carryChannelStop)

end Sys2Proof.Machine
end

