-- ==== Sys2Proof/Machine/Reads.lean ====
section
/-! DEFINITION. Outstanding host-memory reads: their completion, the slow-read flag, and the read limit
(R138, R151, R160, R161). -/

namespace Sys2Proof.Machine

/-- The outstanding read with a number. -/
def State.readOp (s : State) (tag : Nat) : Option ReadOp := s.bus.reads.find? fun r => decide (r.tag = tag)

/-- Cycles since a read was issued (R161). -/
def State.readAge (s : State) (r : ReadOp) : Nat := (s.count - r.issued).toNat

/-- A read's limit has passed, so that a completion that arrives now is discarded (R161, log 12). -/
def State.readLate (s : State) (r : ReadOp) : Bool := decide (Config.readLimit < s.readAge r)

/-- The read is no longer outstanding. -/
def State.dropRead (s : State) (tag : Nat) : State :=
  { s with bus := { s.bus with reads := s.bus.reads.filter fun r => decide (r.tag ≠ tag) } }

/-- The slow-read flag is set by a completion more than 1 ms after the issue (R160, log 15). -/
def State.noteAge (s : State) (r : ReadOp) : State :=
  { s with bus := { s.bus with slowRead := s.bus.slowRead || decide (Config.slowReadAge < s.readAge r) } }

/-- An owner-word read of a lane is outstanding (R138). -/
def State.ownerReadOut (s : State) (l : LaneNo) : Bool :=
  s.bus.reads.any fun r => decide (r.purpose = .ownerWord l)

/-- The outstanding reads for a purpose are no longer wanted (R145, R151). -/
def State.disownReads (s : State) (which : ReadPurpose → Bool) : State :=
  { s with bus :=
    { s.bus with reads := s.bus.reads.map fun r => if which r.purpose then { r with wanted := false } else r } }

end Sys2Proof.Machine
end

