-- ==== Sys2Proof/Machine/Staging.lean ====
section
/-! DEFINITION. The Staging Buffer: the partition, admission, the drop tally and DROPPED records, which offers may
be taken, and PARTITION_SET (R129 to R135). -/

namespace Sys2Proof.Machine

/-! ### Blocks -/

/-- A lane's holding: the blocks of the records in its FIFO (R129). -/
def StagingLane.holding (g : StagingLane) : Nat := (g.fifo.map Record.blocks).sum

/-- The part of a holding that is counted against the pool (R129). -/
def StagingLane.shared (g : StagingLane) : Nat := g.holding - g.allotment

/-- A sum over the four lanes. -/
def State.overLanes (s : State) (f : StagingLane → Nat) : Nat :=
  f (s.stage 0) + f (s.stage 1) + f (s.stage 2) + f (s.stage 3)

/-- The size of the shared pool (R129). -/
def State.poolBlocks (s : State) : Nat := Config.stagingBlocks - s.overLanes StagingLane.allotment

/-- The free part of the shared pool (R129). -/
def State.freePool (s : State) : Nat := s.poolBlocks - s.overLanes StagingLane.shared

/-- The need of a record: one block more when a DROPPED record must precede it (R132). -/
def StagingLane.need (g : StagingLane) (r : Record) : Nat := r.blocks + (if 0 < g.tally.dropped then 1 else 0)

/-- A lane's shared part if its holding grew by a need (R132). -/
def StagingLane.sharedWith (g : StagingLane) (need : Nat) : Nat := g.holding + need - g.allotment

/-- The need is met from the allotment, the cap and the free pool (R132). -/
def State.needMet (s : State) (l : LaneNo) (need : Nat) : Bool :=
  let g := s.stage l
  decide (g.sharedWith need ≤ g.cap ∧ g.sharedWith need - g.shared ≤ s.freePool)

/-! ### Dropping -/

/-- A time as a drop time keeps it (R133). -/
def DatedTime.toDrop (t : DatedTime) : DropTime := { sec := t.time.sec, ns := t.time.ns, epoch := t.epoch }

/-- The record carries a time of its own, composed from a capture (R133). -/
def Record.ownTime : Record → Bool
  | .arrival _ | .partner _ | .gap _ | .lineMiss _ => true
  | .time r => decide (r.event = .edge)
  | .resync _ | .dropped _ | .step _ | .port _ => false

/-- The drop time of a record dropped now (R133). -/
def State.dropTime (s : State) (r : Record) : DropTime := if r.ownTime then r.dated.toDrop else s.reading.toDrop

def Record.isArrival : Record → Bool
  | .arrival _ => true
  | .partner _ | .gap _ | .lineMiss _ | .resync _ | .dropped _ | .step _ | .port _ | .time _ => false

def Record.isDropped : Record → Bool
  | .dropped _ => true
  | .arrival _ | .partner _ | .gap _ | .lineMiss _ | .resync _ | .step _ | .port _ | .time _ => false

/-- A tally with one record more (R133). -/
def Tally.add (t : Tally) (r : Record) (at' : DropTime) : Tally :=
  { dropped := t.dropped + 1, arrivals := t.arrivals + (if r.isArrival then 1 else 0)
    first := some (t.first.getD at'), last := some at' }

/-- A record is dropped into its lane's tally (R133). -/
def dropRecord (l : LaneNo) (r : Record) (s : State) : State :=
  let g := s.stage l
  (s.setStage l { g with tally := g.tally.add r (s.dropTime r), dropTotal := g.dropTotal + 1 }).bump
    (.lane l .recordsDropped)

/-! ### The DROPPED record -/

/-- A count as a DROPPED record reports it (R134). -/
def saturated (n : Nat) : Nat := min n 4294967295

/-- The tally after a DROPPED record has reported what it could (R134). -/
def Tally.afterReport (t : Tally) : Tally :=
  if t.dropped ≤ 4294967295 ∧ t.arrivals ≤ 4294967295 then .empty
  else { dropped := t.dropped - saturated t.dropped, arrivals := t.arrivals - saturated t.arrivals
         first := t.last, last := t.last }

/-- A DROPPED record formed from a tally that holds drop times joins the FIFO (R132, R134). -/
def formDropped (l : LaneNo) (s : State) : State :=
  let g := s.stage l
  match g.tally.first, g.tally.last with
  | some first, some last =>
    let r : DroppedRecord :=
      { dropped := saturated g.tally.dropped, arrivals := saturated g.tally.arrivals, first := first, last := last
        time := s.reading }
    s.setStage l { g with fifo := g.fifo ++ [.dropped r], tally := g.tally.afterReport }
  | none, _ | some _, none => s

/-! ### Admission -/

/-- A record joins its lane's FIFO, after a DROPPED record when the tally is not empty (R132). -/
def admitRecord (l : LaneNo) (r : Record) (s : State) : State :=
  let t := if 0 < (s.stage l).tally.dropped then formDropped l s else s
  t.setStage l { t.stage l with fifo := (t.stage l).fifo ++ [r] }

/-- The Staging Buffer takes an offer, by the state of its lane (R131). -/
def takeOffer (o : Offer) (s : State) : State :=
  match (s.lane o.lane).state with
  | .closed | .closing => s.bump o.source.noLane
  | .opened | .starved =>
    if s.needMet o.lane ((s.stage o.lane).need o.record) then admitRecord o.lane o.record s
    else dropRecord o.lane o.record s
  | .halted => dropRecord o.lane o.record s

/-! ### The order of offers -/

/-- A STEP record of a discipline step. -/
def Record.isDisciplineStep : Record → Bool
  | .step r => decide (r.cause = .discipline)
  | .arrival _ | .partner _ | .gap _ | .lineMiss _ | .resync _ | .dropped _ | .port _ | .time _ => false

/-- A TIME record of a stepping edge. -/
def Record.isSteppedTime : Record → Bool
  | .time r => r.stepped
  | .arrival _ | .partner _ | .gap _ | .lineMiss _ | .resync _ | .dropped _ | .port _ | .step _ => false

/-- A GAP or LINE_MISS record whose time is of an older epoch than a STEP record's, the epochs compared in serial
arithmetic, so that the step came between the creation and the removal of its entry (R126). -/
def Record.predates (r step : Record) : Bool :=
  let later := (step.dated.epoch - r.dated.epoch).toNat
  match r with
  | .gap _ | .lineMiss _ => decide (1 ≤ later ∧ later < 32768)
  | .arrival _ | .partner _ | .resync _ | .dropped _ | .port _ | .step _ | .time _ => false

/-- Two records of the Table caused by one frame, both on that frame's lane (R110). -/
def sameFrame (x y : Option FrameTag) (a b : LaneNo) : Bool :=
  match x with
  | some f => decide (y = some f ∧ a = f.lane ∧ b = f.lane)
  | none => false

/-- An offer built earlier must be taken before another: a port's notices in order (R15, R73), a port's foreign
frames in order (R68), a channel's records in order and the records that one frame causes on its own lane (R110,
R122), the STEP records of a lane in order (R28), a STEP record before the GAP and LINE_MISS records on its lane of
entries that the step found waiting (R126), the STEP record of a stepping edge before its TIME record, and the TIME
records in order (R47). Any other two have no defined order (log 10). -/
def mustPrecede (a b : Offer) : Bool :=
  match a.source, b.source with
  | .port j, .port k => decide (j = k)
  | .classifier j _, .classifier k _ => decide (j = k)
  | .table c x, .table d y => decide (c = d) || sameFrame x y a.lane b.lane
  | .timebase, .table _ _ => decide (a.lane = b.lane) && b.record.predates a.record
  | .timebase, .timebase => decide (a.lane = b.lane)
  | .timebase, .discipline => a.record.isDisciplineStep && b.record.isSteppedTime
  | .discipline, .discipline => true
  | .port _, _ | .classifier _ _, _ | .table _ _, _ | .timebase, _ | .discipline, _ => false

/-- The offer at a position may be taken: none built before it must be taken first. -/
def State.offerReady (s : State) (position : Nat) (o : Offer) : Bool :=
  (s.offers.take position).all fun a => !mustPrecede a o

/-! ### PARTITION_SET -/

/-- The allotment and the cap that PARTITION_SET gives a lane (R173). -/
def givenAllotment (slot : List Byte) (l : LaneNo) : Nat := slotField slot (8 + 2 * l) 2
def givenCap (slot : List Byte) (l : LaneNo) : Nat := slotField slot (16 + 2 * l) 2

/-- A lane's allotment and cap set (R130). -/
def setPartition (l : LaneNo) (allotment cap : Nat) (s : State) : State :=
  s.setStage l { s.stage l with allotment := allotment, cap := cap }

/-- PARTITION_SET carried out (R130, R173). -/
def carryPartitionSet (slot : List Byte) (s : State) : State :=
  let lanes := List.finRange 4
  let total := (lanes.map (givenAllotment slot)).sum
  if lanes.any fun l => decide ((s.lane l).state ≠ .closed) then s.answerWith .busy []
  else if (lanes.any fun l => decide (givenAllotment slot l < Config.smallestAllotment)) ∨ Config.stagingBlocks < total then
    s.answerWith .badParam []
  else
    let pool := Config.stagingBlocks - total
    let cap (l : LaneNo) : Nat := min pool (givenCap slot l)
    let t := lanes.foldl (fun t l => setPartition l (givenAllotment slot l) (cap l) t) s
    t.answerWith (if lanes.all fun l => decide (cap l = givenCap slot l) then .ok else .adjusted)
      [(48, leBytes 2 (cap 0)), (50, leBytes 2 (cap 1)), (52, leBytes 2 (cap 2)), (54, leBytes 2 (cap 3)),
       (56, leBytes 2 pool)]

/-- PARTITION_SET, request 32h (R130). -/
def execPartitionSet (s : State) : Host.Outcome State Fault Refusal := .next (s.carryOut 0x32 carryPartitionSet)

end Sys2Proof.Machine
end

