-- ==== Sys2Proof/Machine/Lanes.lean ====
section
/-! DEFINITION. The Lane Writers: page taking and starvation, writing records, page close and notification,
LANE_OPEN and LANE_CLOSE (R136 to R147). -/

namespace Sys2Proof.Machine

/-! ### Taking a page -/

/-- The size of a lane's pages in bytes (R136, R170). -/
def Lane.pageSize (w : Lane) : Nat := 2 ^ w.exponent

/-- The address of the page at the next page index. -/
def Lane.nextAddress (w : Lane) : Option Address := w.pages[w.nextPage]?

/-- Issues the read of the owner word of the page at the next page index; the re-read timer waits for its result
(R138, R139). -/
def readOwner (l : LaneNo) (s : State) : State :=
  let w := s.lane l
  match w.nextAddress with
  | some address => (s.setLane l { w with rereadAt := none }).issueRead (.ownerWord l) address 4
  | none => s

/-- An OPEN or CLOSING lane with a record at its FIFO's head and no current page takes a page; at most one
owner-word read of a lane is outstanding (R138, log 32). -/
def seekPage (l : LaneNo) (s : State) : State :=
  let w := s.lane l
  if (w.state = .opened ∨ w.state = .closing) ∧ (s.stage l).fifo ≠ [] ∧ w.current = none ∧ s.ownerReadOut l = false
  then readOwner l s else s

/-! ### Closing a page -/

/-- The reasons of a page close (R142). -/
inductive CloseReason where
  | full
  | linger
  | flush
  deriving DecidableEq, Repr

def CloseReason.code : CloseReason → Nat
  | .full => 1
  | .linger => 2
  | .flush => 3

def CloseReason.counter : CloseReason → LaneCounter
  | .full => .fullCloses
  | .linger => .lingerCloses
  | .flush => .flushCloses

/-- Bytes 4 to 31 of a page header at the close (R142, R170). -/
def pageHeader (l : LaneNo) (w : Lane) (p : CurrentPage) (reason : CloseReason) (now : DatedTime) : List Byte :=
  layout 28
    [(0, leBytes 4 w.pageSerial.toNat), (4, leBytes 4 p.firstSerial.toNat), (8, leBytes 2 p.records),
     (10, leBytes 1 reason.code), (11, leBytes 1 l), (12, leBytes 4 p.used), (16, leBytes 2 now.epoch.toNat),
     (20, leBytes 4 now.time.sec.toNat), (24, leBytes 4 now.time.ns)]

/-- The notification of a page close (R143). -/
def notifyClose (l : LaneNo) (s : State) : State :=
  let w := s.lane l
  if w.batch ≤ w.pendingCloses + 1 ∨ w.holdoff = 0 then
    (s.setLane l { w with pendingCloses := 0, holdoffAt := none }).setCause (.lane l)
  else
    s.setLane l
      { w with pendingCloses := w.pendingCloses + 1, holdoffAt := some (s.count + microseconds w.holdoff) }

/-- The lane after the close of its current page (R142). -/
def Lane.afterClose (w : Lane) : Lane :=
  { w with pageSerial := w.pageSerial + 1, nextPage := (w.nextPage + 1) % w.pages.length
           closedPages := w.closedPages + 1, current := none, lingerAt := none }

/-- Closes the current page: header, READY, counts, closed-page count to the Status Block, notification (R142). -/
def closePage (l : LaneNo) (reason : CloseReason) (s : State) : State :=
  let w := s.lane l
  match w.current with
  | some p =>
    let t := (s.writeAt (p.address + 4) (pageHeader l w p reason s.reading)).writeAt p.address (leBytes 4 2)
    let u := (t.setLane l w.afterClose).bump (.lane l reason.counter)
    notifyClose l (u.writeArea (0x484 + 16 * l) (leBytes 4 (w.closedPages + 1).toNat))
  | none => s

/-! ### Writing records -/

/-- The counter of a record written (R140, R147). -/
def writtenCounter (l : LaneNo) (r : Record) : Counter :=
  if r.isDropped then .lane l .droppedWritten else .lane l .written

/-- The lane after a record of a length is written into its current page (R140, log 28). -/
def Lane.afterWrite (w : Lane) (p : CurrentPage) (length : Nat) (now : Count) : Lane :=
  { w with current := some { p with used := p.used + length, records := p.records + 1 }
           serial := w.serial + 1, lingerAt := some (now + microseconds w.linger)
           closeWritten := if w.state = .closing then w.closeWritten + 1 else w.closeWritten }

/-- Writes the head record of the FIFO into the current page (R140). -/
def writeHead (l : LaneNo) (s : State) : State :=
  let w := s.lane l
  let g := s.stage l
  match w.current, g.fifo with
  | some p, r :: rest =>
    let t := s.writeAt (p.address + BitVec.ofNat 64 p.used) (r.encode w.serial)
    ((t.setLane l (w.afterWrite p r.length s.count)).setStage l { g with fifo := rest }).bump (writtenCounter l r)
  | none, _ | some _, [] => s

/-- Writes the head record, or closes the page with FULL first and takes a new one when it does not fit (R140). -/
def writeNext (l : LaneNo) (s : State) : State :=
  match (s.lane l).current, (s.stage l).fifo with
  | some p, r :: _ =>
    if p.used + r.length ≤ (s.lane l).pageSize then writeHead l s else seekPage l (closePage l .full s)
  | none, _ | some _, [] => s

/-- A page found FREE becomes the current page, and the head record is written into it (R138, R139). -/
def takePage (l : LaneNo) (address : Address) (s : State) : State :=
  let w := s.lane l
  writeHead l <|
    s.setLane l
      { w with state := if w.state = .starved then .opened else w.state, rereadAt := none
               current := some { address := address, used := 32, records := 0, firstSerial := w.serial } }

/-! ### Closing a lane -/

/-- The result of LANE_CLOSE (R144, R173). -/
def closeResult (w : Lane) (g : StagingLane) (discarded : Nat) : List (Nat × List Byte) :=
  [(48, leBytes 2 w.closeWritten), (50, leBytes 2 discarded), (52, leBytes 4 w.closedPages.toNat),
   (56, leBytes 4 w.serial.toNat), (60, leBytes 4 g.dropTotal.toNat)]

/-- Pages not yet announced are announced at the end of a close (R144). -/
def announceRest (l : LaneNo) (s : State) : State :=
  if 0 < (s.lane l).pendingCloses then s.setCause (.lane l) else s

/-- The end of a close: FLUSH, notification, CLOSED, and the outcome (R144). -/
def endClose (l : LaneNo) (outcome : ReqOutcome) (discarded : Nat) (s : State) : State :=
  let t := announceRest l (closePage l .flush s)
  let u := t.setLane l { t.lane l with state := .closed, pendingCloses := 0, holdoffAt := none, lingerAt := none }
  u.answerWith outcome (closeResult (u.lane l) (u.stage l) discarded)

/-- The records of a FIFO other than DROPPED records (R145, R147). -/
def lossCount (fifo : List Record) : Nat := fifo.countP fun r => !r.isDropped

/-- A close that discards: FIFO and tally emptied, the losses counted, the owner-word read no longer wanted (R145). -/
def closeWithLoss (l : LaneNo) (s : State) : State :=
  let g := s.stage l
  let lost := lossCount g.fifo
  let t := s.setStage l { g with fifo := [], tally := .empty, dropTotal := g.dropTotal + BitVec.ofNat 32 lost }
  let u := (t.bumpBy (.lane l .closeDiscards) lost).disownReads fun p => decide (p = .ownerWord l)
  endClose l .loss lost (u.setLane l { u.lane l with rereadAt := none })

/-- LANE_CLOSE carried out (R144, R145, R173). A HALTED lane stays HALTED, and no outcome follows (R146, R162, log 29). -/
def carryLaneClose (slot : List Byte) (s : State) : State :=
  match laneNo? (slotField slot 8 1), switch? (slotField slot 9 1) with
  | some l, some discard =>
    let w := s.lane l
    match w.state with
    | .closed => s.answerWith .ok []
    | .opened =>
      if discard then closeWithLoss l (s.setLane l { w with closeWritten := 0 })
      else s.setLane l { w with state := .closing, closeWritten := 0 }
    | .starved => closeWithLoss l (s.setLane l { w with closeWritten := 0 })
    | .closing | .halted => s
  | none, _ | some _, none => s.answerWith .badParam []

/-- A CLOSING lane's FIFO is empty: the close ends, or a final DROPPED record is formed from the tally and written
first (R134, R144). -/
def drainEnd (l : LaneNo) (s : State) : State :=
  if (s.stage l).tally.dropped = 0 then endClose l .ok 0 s
  else
    let t := formDropped l s
    let u := if (t.lane l).current = none then seekPage l t else writeNext l t
    if (u.stage l).fifo = [] ∧ (u.stage l).tally.dropped = 0 then endClose l .ok 0 u else u

/-! ### Opening a lane -/

/-- LANE_OPEN carried out: the checks, then the read of the page list (R137, R173, log 24). -/
def carryLaneOpen (slot : List Byte) (s : State) : State :=
  match laneNo? (slotField slot 8 1) with
  | none => s.answerWith .badParam []
  | some l =>
    let w := s.lane l
    if w.state ≠ .closed then s.answerWith .busy []
    else
      match openParams slot with
      | none => s.answerWith .badParam []
      | some p =>
        if s.bus.faulted then s
        else
          (s.setLane l { w with opening := some p.opening }).issueRead (.pageList l) p.list (8 * p.opening.count)

/-- The Lane Writer just opened with a page list (R137). -/
def Lane.openedWith (w : Lane) (o : Opening) (pages : List Address) : Lane :=
  { w with state := .opened, pages := pages, exponent := o.exponent, nextPage := 0, current := none, serial := 0
           pageSerial := 0, closedPages := 0, linger := max 1 o.linger, holdoff := o.holdoff
           batch := clampNat 1 255 o.batch, pendingCloses := 0, opening := none }

/-- The addresses of a page list, 8 bytes each, little-endian, in list order (R137). -/
def pageList : Nat → List Byte → List Address
  | 0, _ => []
  | n + 1, bytes => BitVec.ofNat 64 (leNat (bytes.take 8)) :: pageList n (bytes.drop 8)

/-- The page list has been read: the addresses are checked and the lane becomes OPEN (R137). -/
def pageListRead (l : LaneNo) (o : Opening) (pages : List Address) (s : State) : State :=
  let w := s.lane l
  if pages.any fun a => decide (a.toNat % 4096 ≠ 0) then
    (s.setLane l { w with opening := none }).answerWith .badParam []
  else
    let u := w.openedWith o pages
    let t := (s.setLane l u).setStage l { s.stage l with tally := .empty, dropTotal := 0 }
    t.answerWith (if u.linger = o.linger ∧ u.batch = o.batch then .ok else .adjusted)
      [(48, leBytes 2 u.linger), (50, leBytes 2 u.holdoff), (52, leBytes 2 u.batch)]

/-! ### Read completions -/

/-- The owner word of a lane's page has been read (R138, R139, R145). -/
def ownerWordRead (l : LaneNo) (r : ReadOp) (word : BitVec 32) (s : State) : State :=
  let w := s.lane l
  let retry : Option Count := some (r.issued + BitVec.ofNat 64 Config.rereadPeriod)
  if word = 1 then takePage l r.address s
  else
    match w.state with
    | .opened => (s.setLane l { w with state := .starved, rereadAt := retry }).bump (.lane l .starvations)
    | .starved => s.setLane l { w with rereadAt := retry }
    | .closing => closeWithLoss l (s.bump (.lane l .starvations))
    | .closed | .halted => s

/-- A completed owner-word read: one no longer wanted has no effect on the lane, which may then read again (R138,
R145). -/
def ownerReadDone (l : LaneNo) (r : ReadOp) (word : BitVec 32) (s : State) : State :=
  let t := (s.dropRead r.tag).noteAge r
  if r.wanted then ownerWordRead l r word t else seekPage l t

/-! ### Timers -/

/-- A timer that runs has reached its end. -/
def timerDue (now : Count) : Option Count → Bool
  | some at' => reached now at'
  | none => false

/-- The linger timer expires (R141). -/
def lingerEnd (l : LaneNo) (s : State) : State := seekPage l (closePage l .linger s)

/-- The holdoff timer expires (R143). -/
def holdoffEnd (l : LaneNo) (s : State) : State :=
  let w := s.lane l
  let t := s.setLane l { w with pendingCloses := 0, holdoffAt := none }
  if 0 < w.pendingCloses then t.setCause (.lane l) else t

/-- A STARVED lane re-reads the owner word of its page, unless a read is outstanding (R139). -/
def reread (l : LaneNo) (s : State) : State :=
  if (s.lane l).state = .starved ∧ s.ownerReadOut l = false then readOwner l s else s

/-! ### The commands -/

/-- LANE_OPEN, request 30h (R137). -/
def execLaneOpen (s : State) : Host.Outcome State Fault Refusal := .next (s.carryOut 0x30 carryLaneOpen)

/-- PAGE_LIST_READ_DONE (R137): the completion of an outstanding page-list read brings 8 bytes for each of its
page-count addresses. -/
def execPageListReadDone (tag : Nat) (bytes : List Byte) (s : State) : Host.Outcome State Fault Refusal :=
  .next <|
    match s.readOp tag with
    | some r =>
      match r.purpose with
      | .pageList l =>
        match (s.lane l).opening with
        | some o =>
          if s.readLate r = false ∧ bytes.length = 8 * o.count then
            pageListRead l o (pageList o.count bytes) ((s.dropRead tag).noteAge r)
          else s
        | none => s
      | .slotState | .slotWhole | .ownerWord _ => s
    | none => s

/-- LANE_CLOSE, request 31h (R144). -/
def execLaneClose (s : State) : Host.Outcome State Fault Refusal := .next (s.carryOut 0x31 carryLaneClose)

/-- CLOSE_DRAIN_END (R144). -/
def execCloseDrainEnd (l : LaneNo) (s : State) : Host.Outcome State Fault Refusal :=
  .next (if (s.lane l).state = .closing ∧ (s.stage l).fifo = [] then drainEnd l s else s)

/-- OFFER_RECORD (R131): the Staging Buffer takes an offer whose turn it can be. -/
def execOfferRecord (position : Nat) (s : State) : Host.Outcome State Fault Refusal :=
  .next <|
    match s.offers[position]? with
    | some o =>
      if s.offerReady position o then
        seekPage o.lane (takeOffer o { s with offers := s.offers.eraseIdx position })
      else s
    | none => s

/-- OWNER_WORD_READ_DONE (R138, R139). -/
def execOwnerWordReadDone (tag : Nat) (word : BitVec 32) (s : State) : Host.Outcome State Fault Refusal :=
  .next <|
    match s.readOp tag with
    | some r =>
      match r.purpose with
      | .ownerWord l => if s.readLate r then s else ownerReadDone l r word s
      | .slotState | .slotWhole | .pageList _ => s
    | none => s

/-- STARVED_REREAD (R139). -/
def execStarvedReread (l : LaneNo) (s : State) : Host.Outcome State Fault Refusal :=
  .next (if timerDue s.count (s.lane l).rereadAt then reread l s else s)

/-- WRITE_RECORD (R140). -/
def execWriteRecord (l : LaneNo) (s : State) : Host.Outcome State Fault Refusal :=
  .next (if (s.lane l).state = .opened ∨ (s.lane l).state = .closing then writeNext l s else s)

/-- LINGER_EXPIRY (R141). -/
def execLingerExpiry (l : LaneNo) (s : State) : Host.Outcome State Fault Refusal :=
  .next (if timerDue s.count (s.lane l).lingerAt then lingerEnd l s else s)

/-- HOLDOFF_EXPIRY (R143). -/
def execHoldoffExpiry (l : LaneNo) (s : State) : Host.Outcome State Fault Refusal :=
  .next (if timerDue s.count (s.lane l).holdoffAt then holdoffEnd l s else s)

end Sys2Proof.Machine
end

