-- ==== Sys2Proof/Machine/Engine.lean ====
section
/-! DEFINITION. The Request Engine: scans, the taking of a slot, completion, and BAD_REQUEST (R155 to R158). -/

namespace Sys2Proof.Machine

/-- The blocks that own requests (R157). -/
inductive Owner where
  | timebase
  | discipline
  | port
  | classifier
  | table
  | laneWriter
  | staging
  | busInterface
  deriving DecidableEq, Repr

/-- The owner of a request code; none for a code that is not in the table (R157). CHANNEL_START and CHANNEL_STOP
belong to the Classifier and the Arbitration Table together. -/
def ownerOf (code : Nat) : Option Owner :=
  if code = 0x01 ∨ code = 0x02 ∨ code = 0x03 then some .timebase
  else if code = 0x04 then some .discipline
  else if code = 0x10 ∨ code = 0x11 then some .port
  else if code = 0x20 ∨ code = 0x21 ∨ code = 0x22 ∨ code = 0x23 then some .classifier
  else if code = 0x24 ∨ code = 0x25 then some .table
  else if code = 0x30 ∨ code = 0x31 then some .laneWriter
  else if code = 0x32 then some .staging
  else if code = 0x40 then some .busInterface
  else none

/-- The owning block of the request in flight (9.4). -/
def Engine.owner (e : Engine) : Option Owner := e.copy.bind fun slot => ownerOf (slotCode slot)

/-- The codes of the outcomes; FAULTED has none, since it is never written (R171). -/
def ReqOutcome.code : ReqOutcome → Nat
  | .ok => 1
  | .adjusted => 2
  | .busy => 3
  | .badRequest => 4
  | .badParam => 5
  | .mapFull => 6
  | .conflict => 7
  | .notFound => 8
  | .loss => 9
  | .faulted => 0

/-- The address of a request slot (R171). -/
def State.slotAddress (s : State) (k : Fin 8) : Address := s.bus.areaBase + BitVec.ofNat 64 (64 * k)

/-- The scan reads the state byte of its slot (R156). -/
def readSlotState (scan : Scan) (s : State) : State :=
  ({ s with engine := { s.engine with scan := some scan } }).issueRead .slotState (s.slotAddress scan.slot) 1

/-- A scan begins, at the slot after the last slot taken, when the engine is IDLE, there is a Control Area, the bus
is NORMAL and no scan is in progress; otherwise the event is not remembered (R155, R156). -/
def beginScan (s : State) : State :=
  if s.engine.state = .idle ∧ s.bus.areaBase ≠ 0 ∧ s.bus.faulted = false ∧ s.engine.scan = none then
    readSlotState { slot := s.engine.lastSlot + 1, left := 8 } s
  else s

/-- The slot is passed over: the scan reads the next one, or ends after the eighth (R156). -/
def passSlot (scan : Scan) (s : State) : State :=
  if scan.left ≤ 1 then { s with engine := { s.engine with scan := none } }
  else readSlotState { slot := scan.slot + 1, left := scan.left - 1 } s

/-- A POSTED slot is taken: TAKEN is written, the engine is BUSY with the copy, and the copy is handed to its owner,
but for an unknown code (R156, R157). -/
def takeSlot (scan : Scan) (slot : List Byte) (s : State) : State :=
  let t := s.writeAt (s.slotAddress scan.slot) (leBytes 1 2)
  { t with engine :=
    { t.engine with
      state := .busy, scan := none, lastSlot := scan.slot, copy := some slot, answer := none
      handed := if (ownerOf (slotCode slot)).isSome then some slot else none } }

/-- A slot's state byte has been read: POSTED makes the scan read the whole slot (R156). -/
def slotStateRead (scan : Scan) (bytes : List Byte) (s : State) : State :=
  if leNat bytes = 1 then s.issueRead .slotWhole (s.slotAddress scan.slot) 64 else passSlot scan s

/-- A whole slot has been read: it is taken if its state byte is still POSTED (R156). -/
def slotWholeRead (scan : Scan) (bytes : List Byte) (s : State) : State :=
  if slotField bytes 0 1 = 1 then takeSlot scan bytes s else passSlot scan s

/-- A completed slot read of the scan in progress, or one that has no effect because its scan has ended (R151,
R156). -/
def slotReadDone (r : ReadOp) (bytes : List Byte) (s : State) : State :=
  let t := s.dropRead r.tag
  match r.wanted, s.engine.scan with
  | true, some scan =>
    if r.purpose = .slotWhole then slotWholeRead scan bytes (t.noteAge r)
    else slotStateRead scan bytes (t.noteAge r)
  | true, none | false, _ => t

/-- The three writes of a completion, CAUSE REQUEST, IDLE, and the scan that follows at once (R157, log 27). -/
def completeRequest (slot : List Byte) (a : Answer) (s : State) : State :=
  let base := s.slotAddress s.engine.lastSlot
  let body : List Run :=
    [{ address := base + 1, bytes := fieldAt slot 1 1 }, { address := base + 3, bytes := fieldAt slot 3 45 ++ a.result }]
  let t := ((s.issueWrite body).writeAt (base + 2) (leBytes 1 a.outcome.code)).writeAt base (leBytes 1 3)
  let u := t.setCause .request
  beginScan
    { u with engine :=
      { u.engine with state := .idle, copy := none, handed := none, answer := none, lastEnd := some a.outcome } }

/-- Whether the slot's code is one of the table of R157. -/
def knownCode (slot : List Byte) : Bool := (ownerOf (slotCode slot)).isSome

/-- SLOT_READ_DONE (R156): the completion of an outstanding slot read brings the bytes it asked for. -/
def execSlotReadDone (tag : Nat) (bytes : List Byte) (s : State) : Host.Outcome State Fault Refusal :=
  .next <|
    match s.readOp tag with
    | some r =>
      if (r.purpose = .slotState ∨ r.purpose = .slotWhole) ∧ s.readLate r = false ∧ bytes.length = r.length then
        slotReadDone r bytes s
      else s
    | none => s

/-- REQUEST_COMPLETE (R157). -/
def execRequestComplete (s : State) : Host.Outcome State Fault Refusal :=
  .next <|
    match s.engine.state, s.engine.copy, s.engine.answer with
    | .busy, some slot, some a => completeRequest slot a s
    | _, _, _ => s

/-- BAD_REQUEST (R157): a copy whose code is not in the table is completed at once, with a result of 0. -/
def execBadRequest (s : State) : Host.Outcome State Fault Refusal :=
  .next <|
    match s.engine.state, s.engine.copy with
    | .busy, some slot =>
      if knownCode slot then s else completeRequest slot { outcome := .badRequest, result := zeros 16 } s
    | _, _ => s

/-- SCAN_TIMER (R155): the expiry at a count that is a multiple of 40,000, taken once (log 6). -/
def execScanTimer (s : State) : Host.Outcome State Fault Refusal :=
  .next <|
    if s.count.toNat % Config.scanPeriod = 0 ∧ s.bus.scanTaken = false then
      beginScan { s with bus := { s.bus with scanTaken := true } }
    else s

/-- NUDGE (R155, R139): a scan may begin, and STARVED lanes re-read their owner words (log 23). -/
def execNudge (s : State) : Host.Outcome State Fault Refusal :=
  .next ((List.finRange 4).foldl (fun t l => reread l t) (beginScan s))

end Sys2Proof.Machine
end

