-- ==== Sys2Proof/Machine/ReadFailure.lean ====
section
/-! DEFINITION. Read failure: the FAULTED state and what the other blocks do at it (R146, R161, R162). -/

namespace Sys2Proof.Machine

/-- A lane at a read failure: OPEN, STARVED and CLOSING become HALTED, a CLOSED lane stays CLOSED and the opening in
progress, if any, ends (R146). -/
def Lane.halt (w : Lane) : Lane :=
  match w.state with
  | .opened | .starved | .closing =>
    { w with state := .halted, lingerAt := none, holdoffAt := none, rereadAt := none, pendingCloses := 0
             opening := none }
  | .closed | .halted => { w with opening := none }

/-- The Request Engine at a read failure: STOPPED, its scan ended, and a request in flight ended with FAULTED. What
was handed to an owner stays with it (R162, log 30). -/
def Engine.fault (e : Engine) : Engine :=
  { e with state := .stopped, scan := none, copy := none, answer := none
           lastEnd := if e.state = .busy then some .faulted else e.lastEnd }

/-- The first read failure, in one event (R161, R162). -/
def enterFaulted (r : ReadOp) (s : State) : State :=
  ({ s with
      lanes := #v[(s.lane 0).halt, (s.lane 1).halt, (s.lane 2).halt, (s.lane 3).halt]
      engine := s.engine.fault
      bus := { s.bus with faultAddr := r.address, faulted := true, reads := [], snapshot := none } }).setCause .fault

/-- A read fails; while the bus is FAULTED a failure changes neither FAULT_ADDR nor CAUSE (R161). -/
def failRead (r : ReadOp) (s : State) : State := if s.bus.faulted then s.dropRead r.tag else enterFaulted r s

/-- READ_FAILURE (R161): the completion of an outstanding read reports an error within its limit. -/
def execReadFailure (tag : Nat) (s : State) : Host.Outcome State Fault Refusal :=
  .next <|
    match s.readOp tag with
    | some r => if s.readLate r then s else failRead r s
    | none => s

/-- READ_LIMIT_EXPIRY (R161): the limit of an outstanding read has passed with no completion. -/
def execReadLimitExpiry (tag : Nat) (s : State) : Host.Outcome State Fault Refusal :=
  .next <|
    match s.readOp tag with
    | some r => if Config.readLimit ≤ s.readAge r then failRead r s else s
    | none => s

end Sys2Proof.Machine
end

