-- ==== Sys2Proof/Machine/Resets.lean ====
section
/-! DEFINITION. The cold reset and the function reset (R1, R20, R37, R38, R55, R56, R88, R114, R128, R149, R163). -/

namespace Sys2Proof.Machine

/-- The edge in the latch after a function reset: kept when the Timebase has taken its correction, dropped when not
(R56). -/
def keepAnswered : Option Edge → Option Edge
  | some e =>
    match e.stage with
    | .answered _ _ _ _ _ => some e
    | .captured | .handed _ _ => none
  | none => none

/-- The Reference Discipline Unit across a function reset (R56). -/
def Discipline.functionReset (d : Discipline) : Discipline :=
  { d with lastError := 0, latch := keepAnswered d.latch, waiting := [] }

/-- The Bus Interface after a function reset. What was issued before stays issued, the message capability is the
endpoint's, and the expiries taken this cycle stay taken (R154, R163). -/
def BusInterface.functionReset (b : BusInterface) : BusInterface :=
  { BusInterface.reset with nextTag := b.nextTag, log := b.log, message := b.message
                            scanTaken := b.scanTaken, refreshTaken := b.refreshTaken }

/-- A port keeps its link state only (R1, R20). -/
def State.portAfterReset (s : State) (k : PortNo) : Port := .reset (s.port k).link

/-- The TIME records built and not yet offered: the discipline runs across the reset, and the lanes then refuse
them (R56, log 21). -/
def keptOffers (offers : List Offer) : List Offer := offers.filter fun o => decide (o.source = .discipline)

/-- A function reset: the oscillator count, the Timebase and the discipline run on, the link states are kept, and
everything else returns to its reset value (R1, R38, R56, R88, R114, R128, R149, R163). -/
def functionReset (s : State) : State :=
  { State.reset with
    pending := s.pending
    count := s.count
    timebase := s.timebase
    discipline := s.discipline.functionReset
    ports := #v[s.portAfterReset 0, s.portAfterReset 1, s.portAfterReset 2, s.portAfterReset 3,
                s.portAfterReset 4, s.portAfterReset 5, s.portAfterReset 6, s.portAfterReset 7]
    offers := keptOffers s.offers
    bus := s.bus.functionReset }

/-- A cold reset: every block at its cold-reset value. The model's own queue, output log and read numbers are not
the part's and go on (R1, R37, R55, R88, R114, R128, R149, R163, log 36). -/
def coldReset (s : State) : State :=
  { State.reset with
    pending := s.pending
    bus := { BusInterface.reset with nextTag := s.bus.nextTag, log := s.bus.log } }

/-- COLD_RESET (R37). -/
def execColdReset (s : State) : Host.Outcome State Fault Refusal := .next (coldReset s)

/-- FUNCTION_RESET (R163). -/
def execFunctionReset (s : State) : Host.Outcome State Fault Refusal := .next (functionReset s)

end Sys2Proof.Machine
end

