-- ==== Sys2Proof/Machine/Registers.lean ====
section
/-! DEFINITION. Register accesses: AREA_BASE, CONTROL, CAUSE, and the writes that are ignored (R150 to R154). -/

namespace Sys2Proof.Machine

/-- Every lane is CLOSED. -/
def State.lanesClosed (s : State) : Bool := (List.finRange 4).all fun l => decide ((s.lane l).state = .closed)

/-- A value presented to AREA_BASE is taken when the bus is NORMAL, every lane is CLOSED and the engine is not BUSY
(R151). -/
def State.takesArea (s : State) : Bool :=
  !s.bus.faulted && s.lanesClosed && decide (s.engine.state ≠ .busy)

/-- A value with its 12 lowest bits taken as 0 (R151). -/
def areaAligned (v : BitVec 64) : BitVec 64 := v &&& ~~~(0xFFF#64)

/-- The read is one of a scan. -/
def ReadPurpose.isSlot : ReadPurpose → Bool
  | .slotState | .slotWhole => true
  | .pageList _ | .ownerWord _ => false

/-- The engine after AREA_BASE has taken a value; a scan in progress ends (R151, R156). -/
def Engine.withArea (e : Engine) (base : BitVec 64) : Engine :=
  if base = 0 then { e with state := .stopped, scan := none }
  else if e.state = .stopped then { e with state := .idle, scan := none, lastSlot := 7 }
  else { e with scan := none }

/-- AREA_BASE takes a value (R151). -/
def setArea (v : BitVec 64) (s : State) : State :=
  let t := s.disownReads ReadPurpose.isSlot
  { t with bus := { t.bus with areaBase := areaAligned v }, engine := t.engine.withArea (areaAligned v) }

/-- A value presented to AREA_BASE uses up the held lower half; it is taken or ignored (R151). -/
def presentArea (v : BitVec 64) (s : State) : State :=
  let t := { s with bus := { s.bus with heldLower := none } }
  if s.takesArea then setArea v t else t

/-- The lower half that an upper-half write combines with (R151). -/
def BusInterface.lowerHalf (b : BusInterface) : BitVec 32 := b.heldLower.getD (b.areaBase.setWidth 32)

/-- A write access to AREA_BASE (R151). -/
def writeArea (access : AreaWrite) (s : State) : State :=
  match access with
  | .whole v => presentArea v s
  | .lowerHalf v => { s with bus := { s.bus with heldLower := some v } }
  | .upperHalf v => presentArea (v ++ s.bus.lowerHalf) s

/-- A CONTROL write without FRESET (R152, R154). -/
def setEnables (v : BitVec 32) (s : State) : State :=
  { s with bus :=
    s.bus.withMessage { s.bus with notify := v.getLsbD 0, enables := (v >>> 8).setWidth 8 } }

/-- A read of CAUSE returns all eight bits and clears those it returned (R153). -/
def readCause (s : State) : State :=
  { s with bus := { s.bus with log := s.bus.log ++ [.reply (s.bus.cause.setWidth 32)], cause := 0 } }

/-- AREA_BASE_WRITE (R151). -/
def execAreaBaseWrite (access : AreaWrite) (s : State) : Host.Outcome State Fault Refusal := .next (writeArea access s)

/-- SET_ENABLES (R152): a value with FRESET set starts a function reset instead (log 33). -/
def execSetEnables (v : BitVec 32) (s : State) : Host.Outcome State Fault Refusal :=
  .next (if v.msb then functionReset s else setEnables v s)

/-- CAUSE_READ (R153). -/
def execCauseRead (s : State) : Host.Outcome State Fault Refusal := .next (readCause s)

/-- IGNORED_REGISTER_WRITE (R150): nothing changes, whatever the offset and value. -/
def execIgnoredRegisterWrite (_offset _value : BitVec 32) (s : State) : Host.Outcome State Fault Refusal := .next s

end Sys2Proof.Machine
end

