-- ==== Sys2Proof/Machine/Status.lean ====
section
/-! DEFINITION. The Status Block refresh and the counter snapshot (R148, R159, R160, R174, R175). -/

namespace Sys2Proof.Machine

/-! ### The Status Block -/

/-- The engine state as the Status Block shows it; a refresh finds the engine IDLE or BUSY (R174). -/
def EngineState.code : EngineState → Nat
  | .stopped => 0
  | .idle => 1
  | .busy => 2

/-- The state of a lane as the Status Block shows it; a HALTED lane is never reported (R174). -/
def LaneState.code : LaneState → Nat
  | .closed => 0
  | .opened => 1
  | .starved => 2
  | .closing => 3
  | .halted => 4

def edgeCode : EdgeKind → Nat
  | .rising => 0
  | .falling => 1

def Polarity.code : Polarity → Nat
  | .activeHigh => 0
  | .activeLow => 1

/-- A lane setting that may be none (R171). -/
def laneOrNoneCode : Option LaneNo → Nat
  | some l => l
  | none => 0xFF

/-- The part and time fields, 404h to 441h (R174). -/
def statusTime (s : State) : List (Nat × List Byte) :=
  let now := s.reading
  let d := s.discipline
  [(0x404, leBytes 1 s.engine.state.code), (0x405, leBytes 1 (boolCode s.bus.slowRead)), (0x406, zeros 2),
   (0x408, leBytes 1 d.state.code), (0x409, leBytes 1 (boolCode d.enabled)), (0x40A, leBytes 2 now.epoch.toNat),
   (0x40C, leInt 4 s.timebase.freq), (0x410, leInt 4 (slewNs s.timebase.slew)), (0x414, zeros 4),
   (0x418, leInt 8 d.lastError), (0x420, leBytes 4 now.time.sec.toNat), (0x424, leBytes 4 now.time.ns),
   (0x428, leBytes 1 now.time.th), (0x429, leBytes 1 now.quality.code), (0x42A, zeros 6),
   (0x430, leBytes 2 d.active.ppsDelay), (0x432, leBytes 2 d.active.slewRate), (0x434, leBytes 4 d.active.stepThreshold),
   (0x438, leBytes 4 d.active.lockThreshold), (0x43C, leBytes 1 d.active.gain),
   (0x43D, leBytes 1 (boolCode d.active.backwardSlew)), (0x43E, leBytes 1 (edgeCode d.polarity)),
   (0x43F, leBytes 1 (laneOrNoneCode d.lane)), (0x440, leBytes 1 d.lampPolarity.code), (0x441, zeros 63)]

/-- The fields of a lane (R148, R174). -/
def statusLane (s : State) (l : LaneNo) : List (Nat × List Byte) :=
  let w := s.lane l
  let base : Nat := 0x480 + 16 * l
  [(base, leBytes 1 w.state.code), (base + 1, zeros 1), (base + 2, leBytes 2 w.nextPage),
   (base + 4, leBytes 4 w.closedPages.toNat), (base + 8, leBytes 4 w.serial.toNat),
   (base + 12, leBytes 4 (s.stage l).dropTotal.toNat)]

/-- The fields of a port (R17, R174). -/
def statusPort (s : State) (k : PortNo) : List (Nat × List Byte) :=
  let p := s.port k
  let base : Nat := 0x4C0 + 8 * k
  [(base, leBytes 1 p.reportedLink), (base + 1, leBytes 1 p.health.code), (base + 2, zeros 2),
   (base + 4, leBytes 4 p.windowCount)]

/-- The fields of the Status Block in offset order, with the refresh count first and last (R160, R174). -/
def statusFields (s : State) (refresh : BitVec 32) : List (Nat × List Byte) :=
  [(0x400, leBytes 4 refresh.toNat)] ++ statusTime s ++ (List.finRange 4).flatMap (statusLane s)
    ++ (List.finRange 8).flatMap (statusPort s) ++ [(0x500, leBytes 4 refresh.toNat)]

/-- A refresh: every value taken at one moment, then the writes in the order of the layout; the refresh count gains
1 and the slow-read flag is cleared (R160, log 26). -/
def refreshStatus (s : State) : State :=
  let refresh := s.bus.refreshCount + 1
  let t := (statusFields s refresh).foldl (fun t f => t.writeArea f.1 f.2) s
  { t with bus := { t.bus with refreshCount := refresh, slowRead := false } }

/-! ### The counter snapshot -/

/-- The counters of each block in row order (R175). -/
def portRows : List PortCounter :=
  [.passed, .runts, .giants, .fcsErrors, .fencedDiscards, .overruns, .aborted, .badCaptured, .noticeNoLane]
def classifierPortRows : List ClassifierPortCounter := [.notUdp, .noMap, .channelOff]
def timebaseRows : List TimebaseCounter := [.setSteps, .adjustSteps, .disciplineSteps, .stepNoLane]
def disciplineRows : List DisciplineCounter := [.accepted, .irregular, .held, .setAside, .holdovers, .timeNoLane]
def classifierChannelRows : List ClassifierChannelCounter :=
  [.classified, .foreignMarker, .foreignShort, .stopDiscards, .noLane]
def tableRows : List TableCounter := [.published, .partners, .duplicates, .stale, .resyncs]
def expiryRows : List ExpiryCounter := [.gaps, .lineMisses, .evictions]
def laneRows : List LaneCounter :=
  [.written, .droppedWritten, .recordsDropped, .fullCloses, .lingerCloses, .flushCloses, .starvations, .closeDiscards]

/-- A counter kept per port, channel or lane, by its place in its block: so many rows to each. -/
def blockCounter {α β : Type} (pick : Nat → Option α) (rows : List β) (name : α → β → Counter) (i : Nat) :
    Option Counter :=
  match pick (i / rows.length), rows[i % rows.length]? with
  | some a, some b => some (name a b)
  | none, _ | some _, none => none

/-- The counter at a place of the snapshot buffer, counting counters from 0 (R175). -/
def counterAt (i : Nat) : Option Counter :=
  if i < 72 then blockCounter portNo? portRows .port i
  else if i < 96 then blockCounter portNo? classifierPortRows .classifierPort (i - 72)
  else if i < 100 then (timebaseRows[i - 96]?).map .timebase
  else if i < 106 then (disciplineRows[i - 100]?).map .discipline
  else if i < 1386 then blockCounter channelNo? classifierChannelRows .classifierChannel (i - 106)
  else if i < 2666 then blockCounter channelNo? tableRows .table (i - 1386)
  else if i < 3434 then blockCounter channelNo? expiryRows .expiry (i - 2666)
  else if i = 3434 then some .poolFull
  else blockCounter laneNo? laneRows .lane (i - 3435)

/-- The copy stands at the next counter, or has none left: then the request ends (R159, R172). -/
def afterCopy (c : SnapshotCopy) (s : State) : State :=
  if c.next + 1 < Config.counterCount then
    { s with bus := { s.bus with snapshot := some { c with next := c.next + 1 } } }
  else
    ({ s with bus := { s.bus with snapshot := none } }).answerWith .ok
      [(48, leBytes 4 c.reading.time.sec.toNat), (52, leBytes 4 c.reading.time.ns), (56, leBytes 2 c.reading.epoch.toNat),
       (58, leBytes 1 c.reading.quality.code), (60, leBytes 4 Config.counterCount)]

/-- One counter is taken, cleared if asked, and written to the buffer (R159). -/
def copyCounter (c : SnapshotCopy) (name : Counter) (s : State) : State :=
  let v := s.counters.get name
  let t := if c.clear then { s with counters := s.counters.put name 0 } else s
  afterCopy c (t.writeAt (c.buffer + BitVec.ofNat 64 (8 * c.next)) (leBytes 8 v.toNat))

/-- COUNTERS_SNAPSHOT carried out: the checks, the reading, and the copy begun; in the FAULTED state there is no
copy (R159, R162). -/
def carrySnapshot (slot : List Byte) (s : State) : State :=
  let buffer := slotField slot 8 8
  match switch? (slotField slot 16 1) with
  | some clear =>
    if buffer = 0 ∨ buffer % 8 ≠ 0 then s.answerWith .badParam []
    else if s.bus.faulted then s
    else
      { s with bus :=
        { s.bus with
          snapshot := some { buffer := BitVec.ofNat 64 buffer, clear := clear, next := 0, reading := s.reading } } }
  | none => s.answerWith .badParam []

/-- STATUS_REFRESH (R160): at a count that is a multiple of 400,000, once, while there is a Control Area and the bus
is NORMAL. -/
def execStatusRefresh (s : State) : Host.Outcome State Fault Refusal :=
  .next <|
    if s.count.toNat % Config.refreshPeriod = 0 ∧ s.bus.refreshTaken = false ∧ s.bus.areaBase ≠ 0
        ∧ s.bus.faulted = false then
      refreshStatus { s with bus := { s.bus with refreshTaken := true } }
    else s

/-- COUNTERS_SNAPSHOT, request 40h (R159). -/
def execCountersSnapshot (s : State) : Host.Outcome State Fault Refusal := .next (s.carryOut 0x40 carrySnapshot)

/-- COUNTER_COPY (R159). -/
def execCounterCopy (s : State) : Host.Outcome State Fault Refusal :=
  .next <|
    match s.bus.snapshot with
    | some c =>
      match counterAt c.next with
      | some name => copyCounter c name s
      | none => s
    | none => s

end Sys2Proof.Machine
end

