-- ==== Sys2Proof/Machine/Dispatch.lean ====
section
/-! DEFINITION. One arm per command: its meaning in its family's file. -/

namespace Sys2Proof.Machine

/-- The effect of a command on everything but the queue of waiting commands. -/
def exec (i : Instr) (s : State) : Host.Outcome State Fault Refusal :=
  match i with
  | .coldReset => Sys2Proof.Machine.execColdReset s
  | .functionReset => Sys2Proof.Machine.execFunctionReset s
  | .oscillatorCycleEnd => Sys2Proof.Machine.execOscillatorCycleEnd s
  | .linkChange port link => Sys2Proof.Machine.execLinkChange port link s
  | .frameFirstByte port within => Sys2Proof.Machine.execFrameFirstByte port within s
  | .endOfFrame port bytes => Sys2Proof.Machine.execEndOfFrame port bytes s
  | .errorWindowEnd port => Sys2Proof.Machine.execErrorWindowEnd port s
  | .classifyFrame port => Sys2Proof.Machine.execClassifyFrame port s
  | .tableTakeFrame port => Sys2Proof.Machine.execTableTakeFrame port s
  | .expiry => Sys2Proof.Machine.execExpiry s
  | .ppsEdge edge within => Sys2Proof.Machine.execPpsEdge edge within s
  | .edgeProcess => Sys2Proof.Machine.execEdgeProcess s
  | .disciplineCorrection => Sys2Proof.Machine.execDisciplineCorrection s
  | .edgeComplete => Sys2Proof.Machine.execEdgeComplete s
  | .holdoverExpiry => Sys2Proof.Machine.execHoldoverExpiry s
  | .setTime => Sys2Proof.Machine.execSetTime s
  | .adjustTime => Sys2Proof.Machine.execAdjustTime s
  | .setFrequency => Sys2Proof.Machine.execSetFrequency s
  | .disciplineSet => Sys2Proof.Machine.execDisciplineSet s
  | .portSet => Sys2Proof.Machine.execPortSet s
  | .portReadmit => Sys2Proof.Machine.execPortReadmit s
  | .mapAdd => Sys2Proof.Machine.execMapAdd s
  | .mapRemove => Sys2Proof.Machine.execMapRemove s
  | .patternLoad => Sys2Proof.Machine.execPatternLoad s
  | .channelSet => Sys2Proof.Machine.execChannelSet s
  | .channelStart => Sys2Proof.Machine.execChannelStart s
  | .channelStop => Sys2Proof.Machine.execChannelStop s
  | .laneOpen => Sys2Proof.Machine.execLaneOpen s
  | .pageListReadDone read bytes => Sys2Proof.Machine.execPageListReadDone read bytes s
  | .laneClose => Sys2Proof.Machine.execLaneClose s
  | .closeDrainEnd lane => Sys2Proof.Machine.execCloseDrainEnd lane s
  | .partitionSet => Sys2Proof.Machine.execPartitionSet s
  | .countersSnapshot => Sys2Proof.Machine.execCountersSnapshot s
  | .counterCopy => Sys2Proof.Machine.execCounterCopy s
  | .badRequest => Sys2Proof.Machine.execBadRequest s
  | .scanTimer => Sys2Proof.Machine.execScanTimer s
  | .nudge => Sys2Proof.Machine.execNudge s
  | .slotReadDone read bytes => Sys2Proof.Machine.execSlotReadDone read bytes s
  | .requestComplete => Sys2Proof.Machine.execRequestComplete s
  | .areaBaseWrite access => Sys2Proof.Machine.execAreaBaseWrite access s
  | .setEnables value => Sys2Proof.Machine.execSetEnables value s
  | .causeRead => Sys2Proof.Machine.execCauseRead s
  | .ignoredRegisterWrite offset value => Sys2Proof.Machine.execIgnoredRegisterWrite offset value s
  | .statusRefresh => Sys2Proof.Machine.execStatusRefresh s
  | .readFailure read => Sys2Proof.Machine.execReadFailure read s
  | .readLimitExpiry read => Sys2Proof.Machine.execReadLimitExpiry read s
  | .offerRecord position => Sys2Proof.Machine.execOfferRecord position s
  | .ownerWordReadDone read word => Sys2Proof.Machine.execOwnerWordReadDone read word s
  | .starvedReread lane => Sys2Proof.Machine.execStarvedReread lane s
  | .writeRecord lane => Sys2Proof.Machine.execWriteRecord lane s
  | .lingerExpiry lane => Sys2Proof.Machine.execLingerExpiry lane s
  | .holdoffExpiry lane => Sys2Proof.Machine.execHoldoffExpiry lane s

end Sys2Proof.Machine
end

