-- ==== Sys2Proof/Machine/Lamps.lean ====
section
/-! DEFINITION. The lamps: pins whose level is a function of the state and the oscillator count (R16, R49). -/

namespace Sys2Proof.Machine

/-- A blink pattern: lit while the count modulo the period is below a limit (R16, R49). -/
def blinkLit (count : Count) (period limit : Nat) : Bool := decide (count.toNat % period < limit)

/-- Whether a port's lamp is lit: the first row of R16's table that applies. -/
def State.portLampLit (s : State) (k : PortNo) : Bool :=
  let p := s.port k
  if p.enabled = false ∨ p.link = .down then false
  else
    match p.health with
    | .fenced => blinkLit s.count 800000000 200000000
    | .degraded => blinkLit s.count 200000000 100000000
    | .normal => true

/-- Whether the SYNC lamp is lit (R49). -/
def State.syncLampLit (s : State) : Bool :=
  match s.discipline.state with
  | .free => false
  | .acquiring => blinkLit s.count 100000000 50000000
  | .locked => true
  | .holdover => blinkLit s.count 400000000 200000000

/-- Whether a lamp's pin is driven high: a lit lamp high when active high, low when active low, an unlit one the
other way (R16, R49, log 25). -/
def drivenHigh (polarity : Polarity) (lit : Bool) : Bool := if polarity = .activeHigh then lit else !lit

def State.portLampHigh (s : State) (k : PortNo) : Bool :=
  drivenHigh (s.port k).settings.lampPolarity (s.portLampLit k)

def State.syncLampHigh (s : State) : Bool := drivenHigh s.discipline.lampPolarity s.syncLampLit

end Sys2Proof.Machine
end

