-- ==== Sys2Proof/Safety.lean ====
section
/-! DEFINITION. What holds of every state of the part: the ranges and bounds that the spec's rules state and that
every step keeps, and the terms in which claims about commands are stated. -/

namespace Sys2Proof.Machine

/-! ### Requests in flight -/

/-- The Request Engine is BUSY and has handed the owner of a code a slot that carries that code (R157). -/
abbrev State.Holds (s : State) (code : Nat) (slot : List Byte) : Prop :=
  s.engine.state = .busy ∧ s.engine.handed = some slot ∧ slotCode slot = code

/-- The state when an owner has carried out what was handed to it and returned an outcome and a result (R157). -/
abbrev State.returns (s : State) (outcome : ReqOutcome) (result : List Byte) : State :=
  { s with engine := { s.engine with handed := none, answer := some { outcome := outcome, result := result } } }

/-- The state when an owner has begun to carry out what was handed to it and has not answered (R157). -/
abbrev State.begun (s : State) : State := { s with engine := { s.engine with handed := none } }

/-! ### The Timebase and the discipline -/

/-- The six adoption settings lie in their ranges (R50). -/
abbrev Adoption.InRange (a : Adoption) : Prop :=
  a.ppsDelay ≤ 65535 ∧ a.stepThreshold ≤ 999999999 ∧ 1 ≤ a.slewRate ∧ a.slewRate ≤ 500 ∧ a.gain ≤ 15
    ∧ 1 ≤ a.lockThreshold ∧ a.lockThreshold ≤ 1000000

/-- The subsecond, F, R and S lie in the ranges of 2.1, with the settings that S is adopted from (R22, R25, R50). -/
abbrev State.TimebaseInRange (s : State) : Prop :=
  s.timebase.sub < Config.oneSecond ∧ s.timebase.freq.natAbs ≤ Config.freqLimit
    ∧ s.timebase.slew.natAbs ≤ Config.halfSecond ∧ s.discipline.active.InRange
    ∧ (∀ a ∈ s.discipline.pending, a.InRange) ∧ 1 ≤ s.timebase.slewRate ∧ s.timebase.slewRate ≤ 500

/-- The discipline state machine: the count is at most 4 and is 4 when LOCKED; the holdover timer runs exactly while
the state is ACQUIRING or LOCKED, and then there is a last accepted edge; a disabled unit is FREE with no edge in
flight (R40, R41, R46, R53). -/
abbrev Discipline.Coherent (d : Discipline) : Prop :=
  d.good ≤ 4 ∧ (d.state = .locked → d.good = 4)
    ∧ (d.timer = true ↔ d.state = .acquiring ∨ d.state = .locked)
    ∧ (d.timer = true → d.lastAccepted ≠ none)
    ∧ (d.enabled = false → d.state = .free ∧ d.latch = none ∧ d.waiting = [])
    ∧ (d.latch = none → d.waiting = [])

/-! ### The ports -/

/-- Settings that a port can hold: the snap length is a multiple of 8 and at most 1,536 (R18). -/
abbrev FrameSettings.InRange (f : FrameSettings) : Prop := f.snap ≤ Config.snapLimit ∧ f.snap % 8 = 0

/-- A port: a DISABLED one receives nothing and runs no error window, an ENABLED one runs one; its handoff queue
holds at most 16 frames, each of 64 to 9,600 bytes with a good FCS (R3, R8 to R10, R12, R18). -/
abbrev Port.Coherent (p : Port) : Prop :=
  (p.enabled = false → p.latch = none ∧ p.windowStart = none ∧ p.windowCount = 0)
    ∧ (p.enabled = true → p.windowStart ≠ none)
    ∧ p.windowCount ≤ 4294967295 ∧ p.settings.frame.InRange ∧ (∀ x ∈ p.latch, x.settings.InRange)
    ∧ p.queue.length ≤ Config.handoffRoom
    ∧ ∀ f ∈ p.queue, 64 ≤ f.bytes.length ∧ f.bytes.length ≤ 9600 ∧ fcsGood f.bytes = true ∧ f.settings.InRange

abbrev State.PortsCoherent (s : State) : Prop := ∀ k : PortNo, (s.port k).Coherent

/-! ### The address maps -/

/-- No key stands at two indices of a map (R71). -/
abbrev AddressMap.KeysOnce (m : AddressMap) : Prop :=
  ∀ (i j : Fin 64) (a b : MapEntry), m[i] = some a → m[j] = some b → a.key = b.key → i = j

/-! ### The pool of pairing entries -/

/-- A channel holds no more entries than its cap, and none, with NextSeq unset, while it is OFF (R89, R91, R121). -/
abbrev State.ChannelBounded (s : State) (ch : ChannelNo) : Prop :=
  (s.channelEntries ch).length ≤ (s.channel ch).settings.entryCap
    ∧ 1 ≤ (s.channel ch).settings.entryCap ∧ (s.channel ch).settings.entryCap ≤ Config.poolSize
    ∧ ((s.channel ch).on = false → s.channelEntries ch = [] ∧ (s.channel ch).nextSeq = none)

/-- The pool never holds more than 4,096 entries, and no channel more than its entry cap (R121). -/
abbrev State.PoolBounded (s : State) : Prop :=
  s.entries.length ≤ Config.poolSize ∧ ∀ ch : ChannelNo, s.ChannelBounded ch

/-- The frame in the Table's input of a port is f, and f is of its channel's present run (R82, R92). -/
abbrev State.Arrives (s : State) (k : PortNo) (f : Classified) : Prop :=
  s.inputOf k = some f ∧ (s.channel f.channel).on = true ∧ (s.channel f.channel).run = f.run

/-- Two ranges that lie behind NextSeq have no sequence number in common (R91): the one that begins farther behind ends
before the other begins. -/
abbrev Entry.Apart (modulus next : Nat) (a b : Entry) : Prop :=
  a.count + behindBy modulus next b.first ≤ behindBy modulus next a.first
    ∨ b.count + behindBy modulus next a.first ≤ behindBy modulus next b.first

/-- The settings of a channel that the Table's arithmetic rests on lie in their ranges (R84). -/
abbrev ChannelSettings.Sound (c : ChannelSettings) : Prop :=
  (c.sequence.width = 4 ∨ c.sequence.width = 8) ∧ (∀ x ∈ c.msgCount, x.width ≤ 2) ∧ c.resyncLimit < c.modulus / 2

/-- An entry of a channel whose NextSeq is set: its range is not empty and lies behind NextSeq; an AWAIT entry is of a
PAIRED channel and covers at most 65,535 sequences, a GAP entry at most the resync limit (R90, R91). -/
abbrev Entry.Behind (e : Entry) (c : ChannelSettings) (next : Nat) : Prop :=
  1 ≤ e.count ∧ e.count ≤ behindBy c.modulus next e.first
    ∧ (∀ w : Winner, e.kind = .await w → c.mode = .paired ∧ e.count ≤ 65535)
    ∧ ∀ o : Opened, e.kind = .gap o → e.count ≤ c.resyncLimit

/-- A channel: sound settings, NextSeq a sequence value, unset while OFF; no entry while it is unset, and else entries
that lie behind it and apart from each other (R89, R90, R91). -/
abbrev State.ChannelApart (s : State) (ch : ChannelNo) : Prop :=
  let x := s.channel ch
  x.settings.Sound ∧ (x.on = false → x.nextSeq = none) ∧ (x.nextSeq = none → s.channelEntries ch = [])
    ∧ ∀ next ∈ x.nextSeq, next < x.settings.modulus ∧ (∀ e ∈ s.channelEntries ch, e.Behind x.settings next)
        ∧ (s.channelEntries ch).Pairwise (Entry.Apart x.settings.modulus next)

/-- Every channel's entries lie behind NextSeq and apart, and every classified frame on its way to the Table counts at
most 65,535 messages (R80, R90, R91). -/
abbrev State.EntriesApart (s : State) : Prop :=
  (∀ ch : ChannelNo, s.ChannelApart ch)
    ∧ ∀ k : PortNo, (∀ f ∈ s.inputOf k, f.c ≤ 65535) ∧ ∀ f ∈ s.waitingOf k, f.c ≤ 65535

/-- The Expiry Queue stands in its order, strictly, so that no entry stands in it twice: by deadline and, among equal
deadlines, by creation order, both compared in serial arithmetic (R115). -/
abbrev State.QueueOrdered (s : State) : Prop :=
  s.entries.Pairwise fun a b =>
    (1 ≤ (b.deadline - a.deadline).toNat ∧ (b.deadline - a.deadline).toNat ≤ 2 ^ 63 - 1)
      ∨ a.deadline = b.deadline ∧ 1 ≤ (b.order - a.order).toNat ∧ (b.order - a.order).toNat ≤ 2 ^ 31 - 1

/-! ### Staging -/

/-- A tally: empty without times, or not empty with both (R129, R133). -/
abbrev Tally.Coherent (t : Tally) : Prop :=
  t.arrivals ≤ t.dropped ∧ (t.dropped = 0 ↔ t.first = none) ∧ (t.first = none ↔ t.last = none)

/-- The Staging Buffer: every allotment is at least 26 blocks and the four at most 4,096 together; every cap is at
most the pool; no lane's shared part exceeds its cap and the four together no more than the pool; a CLOSED lane holds
no record; every tally is coherent (R129, R130, R132, R144). -/
abbrev State.StagingBounded (s : State) : Prop :=
  s.overLanes StagingLane.allotment ≤ Config.stagingBlocks
    ∧ s.overLanes StagingLane.shared ≤ s.poolBlocks
    ∧ ∀ l : LaneNo, Config.smallestAllotment ≤ (s.stage l).allotment ∧ (s.stage l).cap ≤ s.poolBlocks
        ∧ (s.stage l).shared ≤ (s.stage l).cap ∧ (s.stage l).tally.Coherent
        ∧ ((s.lane l).state = .closed → (s.stage l).fifo = [])

/-- The records that a staged record accounts for: itself, or the dropped ones that a DROPPED record reports (R135). -/
def Record.accounts : Record → Nat
  | .dropped r => r.dropped
  | .arrival _ | .partner _ | .gap _ | .lineMiss _ | .resync _ | .step _ | .port _ | .time _ => 1

/-- The records that a lane still has to account for: those that its FIFO accounts for and those its tally counts
(R135). -/
def StagingLane.owed (g : StagingLane) : Nat := (g.fifo.map Record.accounts).sum + g.tally.dropped

/-! ### The Bus Interface and the Request Engine -/

/-- A lane that neither takes nor writes pages (R146). -/
abbrev LaneState.Still (w : LaneState) : Prop := w = .closed ∨ w = .halted

/-- AREA_BASE is aligned to 4 KiB; the engine is STOPPED exactly when there is no Control Area or the bus is FAULTED,
BUSY exactly when it holds a copy, and scans only while IDLE; in the FAULTED state no read is outstanding, no copy of
the counters runs and every lane is CLOSED or HALTED; in the NORMAL state no lane is HALTED (R146, R151, R155, R156,
R162). -/
abbrev State.BusCoherent (s : State) : Prop :=
  s.bus.areaBase &&& 0xFFF#64 = 0
    ∧ (s.engine.state = .stopped ↔ s.bus.areaBase = 0 ∨ s.bus.faulted = true)
    ∧ (s.engine.state = .busy ↔ s.engine.copy ≠ none)
    ∧ (s.engine.scan ≠ none → s.engine.state = .idle)
    ∧ (s.engine.answer ≠ none → s.engine.state = .busy)
    ∧ (s.bus.faulted = true → s.bus.reads = [] ∧ s.bus.snapshot = none
        ∧ ∀ l : LaneNo, (s.lane l).state.Still ∧ (s.lane l).opening = none)
    ∧ (s.bus.faulted = false → ∀ l : LaneNo, (s.lane l).state ≠ .halted)

/-- An interrupt message or the reply to a read of CAUSE: neither is a host-memory access (R154). -/
def BusEvent.offMemory : BusEvent → Bool
  | .message _ _ | .reply _ => true
  | .read _ _ _ | .write _ => false

/-- An interrupt message (R154). -/
def BusEvent.isMessage : BusEvent → Bool
  | .message _ _ => true
  | .read _ _ _ | .write _ | .reply _ => false

end Sys2Proof.Machine
end

