-- ==== Sys2Proof/WellFormed.lean ====
section
/-! DEFINITION. Which commands can arise: the checks on their operands. -/

namespace Sys2Proof

/-- An event lies within its cycle: 0 ≤ f < 1 (R5). -/
def CycleFraction.wf (f : CycleFraction) : Bool := decide (f.num < f.den)

/-- The offsets at which a register that takes writes stands: both halves of AREA_BASE, CONTROL and NUDGE (R176). -/
def writableOffsets : List (BitVec 32) := [0x08, 0x0C, 0x10, 0x14]

/-- The checks on a command's operands. A CONTROL write with FRESET (bit 31) set is FUNCTION_RESET, not
SET_ENABLES (R152); an ignored register write names no register that takes writes (R150); a frame has at least
one byte (R4). -/
def Instr.wf : Instr → Bool
  | .coldReset => true
  | .functionReset => true
  | .oscillatorCycleEnd => true
  | .linkChange _ _ => true
  | .frameFirstByte _ f => f.wf
  | .endOfFrame _ bytes => !bytes.isEmpty
  | .errorWindowEnd _ => true
  | .classifyFrame _ => true
  | .tableTakeFrame _ => true
  | .expiry => true
  | .ppsEdge _ f => f.wf
  | .edgeProcess => true
  | .disciplineCorrection => true
  | .edgeComplete => true
  | .holdoverExpiry => true
  | .setTime => true
  | .adjustTime => true
  | .setFrequency => true
  | .disciplineSet => true
  | .portSet => true
  | .portReadmit => true
  | .mapAdd => true
  | .mapRemove => true
  | .patternLoad => true
  | .channelSet => true
  | .channelStart => true
  | .channelStop => true
  | .laneOpen => true
  | .pageListReadDone _ bytes => decide (16 ≤ bytes.length ∧ bytes.length ≤ 8192 ∧ bytes.length % 8 = 0)
  | .laneClose => true
  | .closeDrainEnd _ => true
  | .partitionSet => true
  | .countersSnapshot => true
  | .counterCopy => true
  | .badRequest => true
  | .scanTimer => true
  | .nudge => true
  | .slotReadDone _ bytes => decide (bytes.length = 1 ∨ bytes.length = 64)
  | .requestComplete => true
  | .areaBaseWrite _ => true
  | .setEnables v => !v.msb
  | .causeRead => true
  | .ignoredRegisterWrite offset _ => !writableOffsets.contains offset
  | .statusRefresh => true
  | .readFailure _ => true
  | .readLimitExpiry _ => true
  | .offerRecord _ => true
  | .ownerWordReadDone _ _ => true
  | .starvedReread _ => true
  | .writeRecord _ => true
  | .lingerExpiry _ => true
  | .holdoffExpiry _ => true

end Sys2Proof
end

