-- ==== Sys2Proof/Certificates/Slice0/Obligations.lean ====
section
/-! DEFINITION. The statements for the provers: what the commands do, by the rules of spec/, and what every step
keeps. -/

open Sys2Proof Sys2Proof.Machine

/-! ### The queue of commands -/

/-- With a command at the front of the queue, a step carries it out with the queue's rest (log 3). On an empty queue
the part idles: the model's own choice (log 3). -/
def Obligations.StepTakesFrontOfQueueOrIdles : Prop :=
  (∀ (c : Instr) (rest : List Instr) (s : State),
      step { s with pending := c :: rest } = exec c { s with pending := rest })
  ∧ (∀ s : State, s.pending = [] → step s = .next s)

/-- Every command is answered by a next state in every state, and leaves the queue of waiting commands alone: the spec
stops no command, and what a command does in a state that does not admit its event is the model's choice (log 2, log
37). -/
def Obligations.EveryCommandAnswersNext : Prop :=
  ∀ (c : Instr) (s : State), ∃ t : State, exec c s = .next t ∧ t.pending = s.pending

/-! ### Resets -/

/-- A cold reset sets the Reference Discipline Unit to its reset values (R55). -/
def Obligations.ColdResetSetsDiscipline : Prop :=
  ∀ s : State, ∃ t : State, exec .coldReset s = .next t
    ∧ t.discipline.enabled = false ∧ t.discipline.polarity = .rising ∧ t.discipline.lane = none
    ∧ t.discipline.lampPolarity = .activeHigh
    ∧ t.discipline.active = { ppsDelay := 0, stepThreshold := 1000000, slewRate := 50, backwardSlew := true
                              gain := 4, lockThreshold := 100 }
    ∧ t.discipline.pending = none ∧ t.discipline.state = .free ∧ t.discipline.good = 0
    ∧ t.discipline.lastAccepted = none ∧ t.discipline.lastError = 0 ∧ t.discipline.timer = false
    ∧ t.discipline.latch = none ∧ (∀ c : DisciplineCounter, t.counters.get (.discipline c) = 0)
    ∧ t.slewRate = 50 ∧ t.syncLampLit = false ∧ t.offers = [] ∧ t.bus.cause = 0

/-- A cold reset returns every block to its reset values, each given here by value, and changes nothing of the model's
own queue, output log and read numbers (the model's choice, log 36) (R1, R37, R84, R88, R114, R128, R129, R136, R150,
R163). A function reset leaves the oscillator count, the Timebase, the discipline (but for its last error and an edge
whose correction is not yet taken) and the recorded link states as they were, and returns everything else to its reset
value; the TIME records not yet taken stay, all of them and in their order, and every other offer is gone (log 21); the
model's own queue, output log and read numbers stay (the model's choice, log 36) (R1, R38, R56, R84, R88, R114, R128,
R129, R136, R149, R163). Of these values the page size exponent 12 of a lane is the model's choice (log 8), and so is
the engine's record of how its last request ended (log 7). -/
def Obligations.ResetsReturnTheBlocks : Prop :=
  let port (link : LinkState) : Port :=
    { enabled := false, link := link, health := .normal
      settings :=
        { frame := { delay := 0, noticeLane := none, unmapped := .ignore, badFrame := .ignore, snap := 64 }
          threshold := 0, fence := false, lampPolarity := .activeHigh }
      windowStart := none, windowCount := 0, latch := none, queue := [] }
  let channel : Channel :=
    { on := false, run := 0, nextSeq := none
      settings :=
        { mode := .paired, lane := 0, snap := 128, sequence := { offset := 0, width := 4, order := .big }
          msgCount := none, marker := { index := 0, length := 0, offset := 0 }, partnerWindow := 1000
          gapWindow := 2000, resyncLimit := 65536, entryCap := 256, reject := .drop } }
  let stage : StagingLane :=
    { allotment := 512, cap := 2048, fifo := []
      tally := { dropped := 0, arrivals := 0, first := none, last := none }, dropTotal := 0 }
  let lane : Lane :=
    { state := .closed, pages := [], exponent := 12, nextPage := 0, current := none, serial := 0, pageSerial := 0
      closedPages := 0, linger := 200, holdoff := 50, batch := 8, lingerAt := none, holdoffAt := none
      rereadAt := none, pendingCloses := 0, opening := none, closeWritten := 0 }
  let engine : Engine :=
    { state := .stopped, scan := none, lastSlot := 7, copy := none, handed := none, answer := none, lastEnd := none }
  (∀ s : State, ∃ t : State, exec .coldReset s = .next t
      ∧ t.count = 0 ∧ t.timebase = { sec := 0, sub := 0, freq := 0, slew := 0, slewRate := 50, epoch := 0 }
      ∧ t.increment = 10737418240 ∧ t.reading.quality = .free
      ∧ (∀ c : Counter, t.counters.get c = 0)
      ∧ (∀ k : PortNo, t.port k = port .down ∧ t.portLampLit k = false ∧ t.inputOf k = none ∧ t.waitingOf k = none
          ∧ ∀ key : Key, mapEntry (t.map k) key = none)
      ∧ (∀ i : Fin 256, t.patterns[i] = 0) ∧ (∀ ch : ChannelNo, t.channel ch = channel)
      ∧ t.entries = [] ∧ t.nextOrder = 0 ∧ t.offers = []
      ∧ (∀ l : LaneNo, t.lane l = lane ∧ t.stage l = stage) ∧ t.engine = engine
      ∧ t.bus.areaBase = 0 ∧ t.bus.control = 0 ∧ t.bus.cause = 0 ∧ t.bus.faultAddr = 0 ∧ t.bus.faulted = false
      ∧ t.bus.heldLower = none ∧ t.bus.refreshCount = 0 ∧ t.bus.slowRead = false ∧ t.bus.reads = []
      ∧ t.bus.snapshot = none
      ∧ t.pending = s.pending ∧ t.bus.log = s.bus.log ∧ t.bus.nextTag = s.bus.nextTag)
  ∧ (∀ s : State, ∃ t : State, exec .functionReset s = .next t
      ∧ t.count = s.count ∧ t.timebase = s.timebase ∧ t.increment = s.increment
      ∧ t.discipline = { s.discipline with lastError := 0, waiting := [], latch := t.discipline.latch }
      ∧ (∀ e : Edge, t.discipline.latch = some e ↔
          s.discipline.latch = some e ∧ ∃ m c a f r, e.stage = .answered m c a f r)
      ∧ (∀ c : Counter, t.counters.get c = 0)
      ∧ (∀ k : PortNo, t.port k = port (s.port k).link ∧ t.inputOf k = none ∧ t.waitingOf k = none
          ∧ ∀ key : Key, mapEntry (t.map k) key = none)
      ∧ (∀ i : Fin 256, t.patterns[i] = 0) ∧ (∀ ch : ChannelNo, t.channel ch = channel)
      ∧ t.entries = [] ∧ t.nextOrder = 0
      ∧ t.offers = s.offers.filter (fun o => decide (o.source = .discipline))
      ∧ (∀ l : LaneNo, t.lane l = lane ∧ t.stage l = stage) ∧ t.engine = engine
      ∧ t.bus.areaBase = 0 ∧ t.bus.control = 0 ∧ t.bus.cause = 0 ∧ t.bus.faultAddr = 0 ∧ t.bus.faulted = false
      ∧ t.bus.heldLower = none ∧ t.bus.refreshCount = 0 ∧ t.bus.slowRead = false ∧ t.bus.reads = []
      ∧ t.bus.snapshot = none
      ∧ t.pending = s.pending ∧ t.bus.log = s.bus.log ∧ t.bus.nextTag = s.bus.nextTag)

/-! ### Time -/

/-- The increment of a cycle, from F, the S in force and the sign of R, and its limits (R23). The frequency term is
given by what rounding means: no other integer lies nearer (no half can occur). -/
def Obligations.IncrementIsNominalPlusCorrections : Prop :=
  ∀ s : State, s.TimebaseInRange →
    s.increment = 10737418240 + freqTerm s.timebase.freq + s.bias
    ∧ 2 * (freqTerm s.timebase.freq * 100000000 - s.timebase.freq * 1073741824).natAbs ≤ 100000000
    ∧ -2147484 ≤ freqTerm s.timebase.freq ∧ freqTerm s.timebase.freq ≤ 2147484
    ∧ -5368709 ≤ s.bias ∧ s.bias ≤ 5368709
    ∧ 10729902047 ≤ s.increment ∧ s.increment ≤ 10744934433

/-- The end of a cycle: the count gains 1 modulo 2^64; the DTC, as one number of sub-units, gains the increment modulo
2^32 seconds; R loses the cycle's bias; the S last handed over governs from the next cycle on (the model's choice where
it was handed over in mid-cycle: log 42); nothing else changes but the two marks of the cycle's timers, which are the
model's own (log 6) (R21, R22, R26, R27). The reading of the DTC that a block without a capture takes: seconds,
nanoseconds and thirty-seconds rounded down, epoch and quality (R24). -/
def Obligations.CycleEndAdvancesCountAndTime : Prop :=
  (∀ s : State, s.TimebaseInRange → ∃ t : State, exec .oscillatorCycleEnd s = .next t
      ∧ t.count = s.count + 1
      ∧ t.timebase.total = (s.timebase.total + s.increment) % (4294967296 * Config.oneSecond : Nat)
      ∧ t.timebase.sub < Config.oneSecond
      ∧ t.timebase.slew = s.timebase.slew - s.bias ∧ t.timebase.slewRate = s.discipline.active.slewRate
      ∧ t.timebase.freq = s.timebase.freq ∧ t.timebase.epoch = s.timebase.epoch
      ∧ t = { s with count := t.count, timebase := t.timebase
                     bus := { s.bus with scanTaken := false, refreshTaken := false } })
  ∧ ∀ s : State,
      s.timebase.total = s.timebase.sec.toNat * 4294967296000000000 + s.timebase.sub
      ∧ s.reading =
        { time := { sec := s.timebase.sec, ns := s.timebase.sub / 4294967296, th := s.timebase.sub / 134217728 % 32 }
          epoch := s.timebase.epoch, quality := s.discipline.state }

/-- The slew (R26): the full bias is S × 10,737.41824 rounded, S being the one that governs the cycle, whatever other S
an edge of the cycle has adopted (log 42); a cycle that begins with R ≠ 0 has as its bias the full bias with the sign of
R, or R itself when its magnitude is smaller, and R loses it; with R = 0 the bias is 0 and the increment has no part
from it. The biases applied sum, to the sub-unit, to what R has lost; a slew's end gives no record and no cause. While
no other S has been handed over than the one that governs, a slew of R ends after |R| divided by the full bias, rounded
up, cycles and not before. -/
def Obligations.SlewEndsAfterItsCycles : Prop :=
  ∀ (s : State) (n : Nat), s.TimebaseInRange →
    let full := fullBias s.timebase.slewRate
    let r := s.timebase.slew
    2 * (full * 100000 - s.timebase.slewRate * 1073741824).natAbs ≤ 100000
    ∧ (∀ u : State, exec .oscillatorCycleEnd u = .next (cycleEnd u))
    ∧ (cycleEnd s).timebase.slew = r - s.bias ∧ (cycleEnd s).offers = s.offers ∧ (cycleEnd s).bus.cause = s.bus.cause
    ∧ (r = 0 → s.bias = 0 ∧ s.increment = 10737418240 + freqTerm s.timebase.freq)
    ∧ (full ≤ r → s.bias = full) ∧ (r ≤ -full → s.bias = -full) ∧ (-full < r → r < full → s.bias = r)
    ∧ ((List.range n).map fun i => (cycleEnd^[i] s).bias).sum = r - (cycleEnd^[n] s).timebase.slew
    ∧ (s.discipline.active.slewRate = s.timebase.slewRate →
        ((cycleEnd^[n] s).timebase.slew = 0 ↔ (r.natAbs + full.toNat - 1) / full.toNat ≤ n))

/-- The lamps: the tables of R16 and R49, and the drive level of a lit lamp. -/
def Obligations.LampsFollowTheirTables : Prop :=
  ∀ (s : State) (k : PortNo),
    let p := s.port k
    let n := s.count.toNat
    (p.enabled = false ∨ p.link = .down → s.portLampLit k = false)
    ∧ (p.enabled = true → p.link = .up → p.health = .fenced →
        s.portLampLit k = decide (n % 800000000 < 200000000))
    ∧ (p.enabled = true → p.link = .up → p.health = .degraded →
        s.portLampLit k = decide (n % 200000000 < 100000000))
    ∧ (p.enabled = true → p.link = .up → p.health = .normal → s.portLampLit k = true)
    ∧ (s.discipline.state = .free → s.syncLampLit = false)
    ∧ (s.discipline.state = .acquiring → s.syncLampLit = decide (n % 100000000 < 50000000))
    ∧ (s.discipline.state = .locked → s.syncLampLit = true)
    ∧ (s.discipline.state = .holdover → s.syncLampLit = decide (n % 400000000 < 200000000))
    ∧ (s.portLampLit k = true → (s.portLampHigh k = true ↔ p.settings.lampPolarity = .activeHigh))
    ∧ (s.syncLampLit = true → (s.syncLampHigh = true ↔ s.discipline.lampPolarity = .activeHigh))

/-! ### Ports -/

/-- A report of a change of link state: recorded on any port; on DOWN the frame in reception is discarded and counted
as aborted; on an ENABLED port a PORT record is offered to the notice lane, or counted as no-lane when there is none,
and CAUSE PORT is set; nothing else changes. A report of the recorded state changes nothing: the model's own choice
(log 14) (R2, R7, R15). The first byte of a frame on an ENABLED port: the latch takes the oscillator count, the phase
(the fraction of the cycle in sixteenths, rounded down), the DTC, increment, epoch and quality of the cycle, and the
settings that govern the frame; on a DISABLED port nothing happens (R4, R5, R6). That it does so with the link DOWN
too, and puts the new frame in the place of one still held in the latch, uncounted, is the model's choice (log 34).
What offering a record does, for these statements and those below: with a lane the record joins the end of the offers,
for that lane and from that block; with none it is discarded, and the no-lane counter of the block that offers gains 1:
the port's notice counter, the channel's, the STEP or the TIME counter (R11, R15, R47, R73, R131). A counter that gains
changes by that much modulo 2^64, and nothing else does (R17, R36, R54, R87). -/
def Obligations.LinkChangesAndFirstBytesAreTaken : Prop :=
  (∀ (k : PortNo) (link : LinkState) (s : State),
      let p := s.port k
      let cut := link = .down ∧ p.latch ≠ none
      let t := s.setPort k { p with link := link, latch := if cut then none else p.latch }
      let u := if cut then t.bump (.port k .aborted) else t
      let r : PortRecord := { port := k, link := link, health := p.health, windowCount := p.windowCount, time := s.reading }
      exec (.linkChange k link) s = .next
        (if p.link = link then s
         else if p.enabled = false then u
         else (u.offerOrDiscard p.settings.frame.noticeLane (.port k) (.port r)).setCause .port))
  ∧ (∀ (k : PortNo) (within : CycleFraction) (s : State), within.wf = true →
      let p := s.port k
      (p.enabled = false → exec (.frameFirstByte k within) s = .next s)
      ∧ (p.enabled = true → ∃ phase : BitVec 4,
          phase.toNat * within.den ≤ within.num * 16 ∧ within.num * 16 < (phase.toNat + 1) * within.den
          ∧ exec (.frameFirstByte k within) s = .next (s.setPort k { p with
              latch := some
                { capture :=
                    { stamp := { n := s.count, p := phase }
                      snap := { sec := s.timebase.sec, sub := s.timebase.sub, increment := s.increment
                                epoch := s.timebase.epoch, quality := s.discipline.state } }
                  settings := p.settings.frame } })))
  ∧ (∀ (source : Source) (r : Record) (s : State),
      (∀ lane : LaneNo,
        s.offer lane source r = { s with offers := s.offers ++ [{ lane := lane, source := source, record := r }] }
        ∧ s.offerOrDiscard (some lane) source r = s.offer lane source r)
      ∧ s.offerOrDiscard none source r = s.bump source.noLane
      ∧ source.noLane =
        match source with
        | .port k => .port k .noticeNoLane
        | .classifier _ ch => .classifierChannel ch .noLane
        | .table ch _ => .classifierChannel ch .noLane
        | .timebase => .timebase .stepNoLane
        | .discipline => .discipline .timeNoLane)
  ∧ ∀ (name : Counter) (n : Nat) (s : State), s.bump name = s.bumpBy name 1
      ∧ ∃ counters : Counters, s.bumpBy name n = { s with counters := counters }
        ∧ ∀ c : Counter, counters.get c = s.counters.get c + (if c = name then BitVec.ofNat 64 n else 0)

/-- The length check at the end of a frame: a runt or a giant is counted and discarded, its FCS, the error window and
the bad-frame policy playing no part; a frame of 64 to 9,600 bytes is neither, and goes on to the FCS check (R8). -/
def Obligations.RuntsAndGiantsAreDiscarded : Prop :=
  ∀ (k : PortNo) (bytes : List Byte) (x : Latch) (s : State), (s.port k).latch = some x →
    let empty := s.setPort k { s.port k with latch := none }
    (bytes.length < 64 → exec (.endOfFrame k bytes) s = .next (empty.bump (.port k .runts)))
    ∧ (9600 < bytes.length → exec (.endOfFrame k bytes) s = .next (empty.bump (.port k .giants)))
    ∧ (64 ≤ bytes.length → bytes.length ≤ 9600 → ∃ t : State, exec (.endOfFrame k bytes) s = .next t
        ∧ t.counters.get (.port k .runts) = s.counters.get (.port k .runts)
        ∧ t.counters.get (.port k .giants) = s.counters.get (.port k .giants)
        ∧ t.counters.get (.port k .fcsErrors) =
            s.counters.get (.port k .fcsErrors) + (if fcsGood bytes then 0 else 1))

/-- A frame of legal length with a good FCS: discarded and counted on a FENCED port; otherwise it joins the tail of the
handoff queue and counts as passed, or counts as an overrun when the queue holds 16 frames; nothing else changes (R10).
A frame of legal length with a bad FCS: the counter and the window count gain 1; the health changes by the table of
R13, with a PORT record before anything else; under CAPTURE the ARRIVAL record flagged BAD_FCS is offered to the
carried notice lane and counted; nothing else changes (R9, R11, R13, R15). At a port with no frame latched, such as one
in reception when the port was enabled, the end of a frame changes nothing (R3, log 2). The FCS is good when the last
four bytes hold the CRC-32 of those before them, of the polynomial 04C11DB7h in reflected order, preset to ones and
complemented, least significant byte first (R9). -/
def Obligations.LegalFrameIsPassedCountedOrCaptured : Prop :=
  (∀ (k : PortNo) (bytes : List Byte) (x : Latch) (s : State), (s.port k).latch = some x →
      64 ≤ bytes.length → bytes.length ≤ 9600 → fcsGood bytes = true →
      let p := s.port k
      let empty := s.setPort k { p with latch := none }
      let frame : Frame := { port := k, bytes := bytes, capture := x.capture, settings := x.settings }
      exec (.endOfFrame k bytes) s = .next
        (if p.health = .fenced then empty.bump (.port k .fencedDiscards)
         else if p.queue.length < 16 then
          (s.setPort k { p with latch := none, queue := p.queue ++ [frame] }).bump (.port k .passed)
         else empty.bump (.port k .overruns)))
  ∧ (∀ (k : PortNo) (bytes : List Byte) (x : Latch) (s : State), (s.port k).latch = some x →
      64 ≤ bytes.length → bytes.length ≤ 9600 → fcsGood bytes = false →
      let p := s.port k
      let n := min (p.windowCount + 1) 4294967295
      let health : Health :=
        if p.settings.threshold = 0 ∨ n < p.settings.threshold then p.health
        else if p.settings.fence then .fenced
        else if p.health = .normal then .degraded
        else p.health
      let t0 := (s.setPort k { p with latch := none, windowCount := n, health := health }).bump (.port k .fcsErrors)
      let notice : PortRecord := { port := k, link := p.link, health := health, windowCount := n, time := s.reading }
      let t1 :=
        if health = p.health then t0
        else (t0.offerOrDiscard p.settings.frame.noticeLane (.port k) (.port notice)).setCause .port
      let captured := (bytes.take (bytes.length - 4)).take x.settings.snap
      let composed := compose x.capture x.settings.delay
      let r : ArrivalRecord :=
        { channel := none, port := k, line := none
          flags := { badFcs := true, truncated := decide (captured.length < bytes.length - 4)
                     timeClamped := composed.clamped }
          time := { time := composed.time, epoch := x.capture.snap.epoch, quality := x.capture.snap.quality }
          reason := .none, frameLength := bytes.length, captured := captured, msgCount := 0, first := 0, pubFirst := 0
          pubCount := 0, stamp := x.capture.stamp }
      exec (.endOfFrame k bytes) s = .next
        (if x.settings.badFrame = .capture then
          (t1.bump (.port k .badCaptured)).offerOrDiscard x.settings.noticeLane (.port k) (.arrival r)
         else t1))
  ∧ (∀ bytes : List Byte,
      let shifted (r : BitVec 32) : BitVec 32 := if r.getLsbD 0 then (r >>> 1) ^^^ (0x04C11DB7#32).reverse else r >>> 1
      let entered (r : BitVec 32) (b : Byte) : BitVec 32 := shifted^[8] (r ^^^ b.setWidth 32)
      let check := ~~~((bytes.take (bytes.length - 4)).foldl entered 0xFFFFFFFF)
      fcsGood bytes = true ↔ bytes.drop (bytes.length - 4) = leBytes 4 check.toNat)
  ∧ ∀ (k : PortNo) (bytes : List Byte) (s : State), (s.port k).latch = none → exec (.endOfFrame k bytes) s = .next s

/-- The end of an error window, 400,000,000 cycles after its beginning: the recovery decision by the port's health, with
the PORT record of a recovery; the count is cleared and the next window begins where this one ended; nothing else
changes (R12, R14). The window has ended when the count has reached its end by the test that R117 gives for deadlines,
modulo 2^64, which the model takes for every timer (log 40); a window that has not ended goes on, and a port that runs
none ends none: nothing changes (R12, log 2). -/
def Obligations.WindowEndAppliesRecovery : Prop :=
  ∀ (k : PortNo) (s : State),
    let p := s.port k
    (p.windowStart = none → exec (.errorWindowEnd k) s = .next s)
    ∧ ∀ start : Count, p.windowStart = some start →
        let ended := start + 400000000
        let next := { p with windowStart := some ended, windowCount := 0 }
        let notice : PortRecord :=
          { port := k, link := p.link, health := .normal, windowCount := p.windowCount, time := s.reading }
        (reached s.count ended = false → exec (.errorWindowEnd k) s = .next s)
        ∧ (reached s.count ended = true →
            (p.health = .degraded → p.settings.threshold = 0 ∨ p.windowCount < p.settings.threshold →
              exec (.errorWindowEnd k) s = .next
                (((s.setPort k { next with health := .normal }).offerOrDiscard p.settings.frame.noticeLane (.port k)
                  (.port notice)).setCause .port))
            ∧ (p.health = .degraded → p.settings.threshold ≠ 0 → p.settings.threshold ≤ p.windowCount →
              exec (.errorWindowEnd k) s = .next (s.setPort k next))
            ∧ (p.health = .normal ∨ p.health = .fenced → exec (.errorWindowEnd k) s = .next (s.setPort k next)))

/-! ### The Classifier -/

/-- The classification of the head of a port's handoff queue: unmapped with its reason, foreign with its reason, or
classified and handed to the Table's input, where it waits when the input is taken; the head leaves the queue, the
outcome is counted, the policy the frame carried or the channel's reject policy is followed, and nothing else changes.
Where the input is taken the frame waits and is not yet counted (log 22) (R68, R72, R73, R79 to R82). A port whose
classified frame waits, and a port with an empty handoff queue, give the Classifier nothing (R68; for the empty queue
the model's choice, log 2). The ARRIVAL record of an unmapped or foreign frame: its port and capture stamp, channel and
line or none, the composed time in the snapshot's epoch and quality, TRUNCATED and TIME_CLAMPED as they apply, reason,
frame length and captured bytes, and 0 in the four sequence fields (R73, R81). -/
def Obligations.ClassifierTakesHeadFrames : Prop :=
  (∀ (k : PortNo) (f : Frame) (rest : List Frame) (s : State),
      (s.port k).queue = f :: rest → f.port = k → s.waitingOf k = none →
      let u := s.setPort k { s.port k with queue := rest }
      let n := f.bytes.length
      let unmapped (reason : Reason) (c : ClassifierPortCounter) : Host.Outcome State Fault Refusal :=
        .next
          (if f.settings.unmapped = .capture then
            (u.bump (.classifierPort k c)).offerOrDiscard f.settings.noticeLane (.port k)
              (.arrival (arrivalOf f.capture f.settings.delay k none none { unmapped := true } reason n
                ((f.bytes.take (n - 4)).take f.settings.snap)))
          else u.bump (.classifierPort k c))
      let foreign (e : MapEntry) (reason : Reason) (c : ClassifierChannelCounter) : Host.Outcome State Fault Refusal :=
        let x := (s.channel e.channel).settings
        .next
          (if x.reject = .capture then
            (u.bump (.classifierChannel e.channel c)).offer x.lane (.classifier k e.channel)
              (.arrival (arrivalOf f.capture f.settings.delay k (some e.channel) (some e.line) { foreign := true } reason n
                ((f.bytes.take (n - 4)).take x.snap)))
          else u.bump (.classifierChannel e.channel c))
      let classified (e : MapEntry) (q m : Nat) : Classified :=
        { port := k, channel := e.channel, line := e.line, run := (s.channel e.channel).run, s := q, c := m
          frameLength := n, captured := (f.bytes.take (n - 4)).take (s.channel e.channel).settings.snap
          capture := f.capture, delay := f.settings.delay }
      (parseFrame (f.bytes.take (n - 4)) = none → exec (.classifyFrame k) s = unmapped .notUdp .notUdp)
      ∧ ∀ p : Parsed, parseFrame (f.bytes.take (n - 4)) = some p →
          (mapEntry (s.map k) p.key = none → exec (.classifyFrame k) s = unmapped .noMap .noMap)
          ∧ ∀ e : MapEntry, mapEntry (s.map k) p.key = some e →
              let x := s.channel e.channel
              let slice := fieldAt s.patterns.toList x.settings.marker.index x.settings.marker.length
              let found := fieldAt p.payload x.settings.marker.offset x.settings.marker.length
              let holds := x.settings.marker.offset + x.settings.marker.length ≤ p.payload.length
              let passes := x.settings.marker.length = 0 ∨ (holds ∧ found = slice)
              (x.on = false → exec (.classifyFrame k) s = unmapped .channelOff .channelOff)
              ∧ (x.on = true → x.settings.marker.length ≠ 0 → ¬holds →
                  exec (.classifyFrame k) s = foreign e .short .foreignShort)
              ∧ (x.on = true → x.settings.marker.length ≠ 0 → holds → found ≠ slice →
                  exec (.classifyFrame k) s = foreign e .marker .foreignMarker)
              ∧ (x.on = true → passes → extract x.settings p.payload = none →
                  exec (.classifyFrame k) s = foreign e .short .foreignShort)
              ∧ (∀ q m : Nat, x.on = true → passes → extract x.settings p.payload = some (q, m) →
                  (s.inputOf k = none → exec (.classifyFrame k) s = .next
                    ((u.setInput k (some (classified e q m))).bump (.classifierChannel e.channel .classified)))
                  ∧ (s.inputOf k ≠ none →
                    exec (.classifyFrame k) s = .next (u.setWaiting k (some (classified e q m))))))
  ∧ (∀ (k : PortNo) (s : State), s.waitingOf k ≠ none ∨ (s.port k).queue = [] → exec (.classifyFrame k) s = .next s)
  ∧ ∀ (x : Capture) (delay : Nat) (k : PortNo) (ch : Option ChannelNo) (line : Option Line) (flags : ArrivalFlags)
      (reason : Reason) (n : Nat) (captured : List Byte),
      let composed := compose x delay
      arrivalOf x delay k ch line flags reason n captured =
        { channel := ch, port := k, line := line
          flags := { flags with truncated := decide (captured.length < n - 4), timeClamped := composed.clamped }
          time := { time := composed.time, epoch := x.snap.epoch, quality := x.snap.quality }
          reason := reason, frameLength := n, captured := captured, msgCount := 0, first := 0, pubFirst := 0
          pubCount := 0, stamp := x.stamp }

/-- The parse of an accepted frame: after the two addresses and at most one VLAN tag, an IPv4 header with any options,
that is no fragment and carries UDP, yields the destination address and port as key, and the payload that the UDP
length gives, whatever padding follows (R69, R70). Of the bytes of any frame: every other shape is refused (another
type, an inner type that is not IPv4, another version, a header below 20 bytes or cut short, a fragment, another
protocol, a UDP header cut short, a UDP length below 8), and each of these alone suffices; an accepted one yields key
and payload, a UDP length beyond the frame cut to the frame (R69, R70). The sequence and the message count that a
channel's locators read from a payload, in their byte order, an absent count being 1; a field that reaches past the
end is missing, the sequence before the count (R80). -/
def Obligations.FramesParseToKeyPayloadSequenceAndCount : Prop :=
  (∀ (macs tag options payload padding : List Byte) (tos l1 l2 i1 i2 fl ttl c1 c2 a1 a2 a3 a4 : Byte)
      (d1 d2 d3 d4 p1 p2 q1 q2 u1 u2 k1 k2 first : Byte),
      macs.length = 12 → (tag = [] ∨ ∃ x y : Byte, tag = [0x81, 0x00, x, y]) →
      first.toNat = 64 + (20 + options.length) / 4 → options.length % 4 = 0 → options.length ≤ 40 →
      fl.toNat % 64 = 0 → u1.toNat * 256 + u2.toNat = 8 + payload.length →
      parseFrame
        (macs ++ tag ++ [0x08, 0x00]
          ++ [first, tos, l1, l2, i1, i2, fl, 0, ttl, 17, c1, c2, a1, a2, a3, a4, d1, d2, d3, d4] ++ options
          ++ [p1, p2, q1, q2, u1, u2, k1, k2] ++ payload ++ padding)
        = some { key := { address := d1 ++ d2 ++ d3 ++ d4, udpPort := q1 ++ q2 }, payload := payload })
  ∧ (∀ bs : List Byte,
      let be (offset width : Nat) : Nat := beNat (fieldAt bs offset width)
      let plain := 14 ≤ bs.length ∧ be 12 2 = 0x0800
      let tagged := 18 ≤ bs.length ∧ be 12 2 = 0x8100 ∧ be 16 2 = 0x0800
      let h := if be 12 2 = 0x0800 then 14 else 18
      let u := h + be h 1 % 16 * 4
      let accepted := (plain ∨ tagged) ∧ be h 1 / 16 = 4 ∧ 20 ≤ be h 1 % 16 * 4 ∧ u ≤ bs.length
        ∧ be (h + 6) 1 / 32 % 2 = 0 ∧ be (h + 6) 2 % 8192 = 0 ∧ be (h + 9) 1 = 17 ∧ u + 8 ≤ bs.length
        ∧ 8 ≤ be (u + 4) 2
      (¬accepted → parseFrame bs = none)
      ∧ (accepted → parseFrame bs = some
          { key := { address := BitVec.ofNat 32 (be (h + 16) 4), udpPort := BitVec.ofNat 16 (be (u + 2) 2) }
            payload := (bs.drop (u + 8)).take (be (u + 4) 2 - 8) }))
  ∧ (∀ (c : ChannelSettings) (payload : List Byte),
      let holds (x : Locator) : Prop := x.offset + x.width ≤ payload.length
      let number (x : Locator) : Nat :=
        match x.order with
        | .big => beNat (fieldAt payload x.offset x.width)
        | .little => leNat (fieldAt payload x.offset x.width)
      (¬holds c.sequence → extract c payload = none)
      ∧ (holds c.sequence → c.msgCount = none → extract c payload = some (number c.sequence, 1))
      ∧ ∀ x : Locator, holds c.sequence → c.msgCount = some x →
          (¬holds x → extract c payload = none)
          ∧ (holds x → extract c payload = some (number c.sequence, number x)))
  ∧ (leNat [] = 0 ∧ beNat [] = 0
      ∧ ∀ (b : Byte) (bs : List Byte), leNat (b :: bs) = b.toNat + 256 * leNat bs ∧ beNat (bs ++ [b]) = 256 * beNat bs + b.toNat)

/-! ### The Arbitration Table and the Expiry Queue -/

/-- The Table takes a classified frame of an OFF channel or of an ended run: it is discarded and counted, and nothing
else changes; with no frame in the input nothing happens (the model's choice, log 2) (R68, R82, R92). After any frame
the port's waiting frame, if there is one, enters the input and counts as classified, and nothing else changes (log
22). -/
def Obligations.FrameOfAnEndedRunIsDiscarded : Prop :=
  ∀ (k : PortNo) (s : State),
    (s.inputOf k = none → exec (.tableTakeFrame k) s = .next s)
    ∧ (∀ f : Classified, s.inputOf k = some f →
        (s.channel f.channel).on = false ∨ (s.channel f.channel).run ≠ f.run → exec (.tableTakeFrame k) s =
          .next (refillInput k ((s.setInput k none).bump (.classifierChannel f.channel .stopDiscards))))
    ∧ (s.waitingOf k = none → refillInput k s = s)
    ∧ ∀ w : Classified, s.waitingOf k = some w → refillInput k s =
        ((s.setWaiting k none).setInput w.port (some w)).bump (.classifierChannel w.channel .classified)

/-- A frame of the present run with c ≥ 1 that reaches NextSeq or beyond. The first of a run and one in order publish
their own range; one ahead by d, within the resync limit, first asks for a GAP entry of the d skipped sequences,
revealed by it, and publishes its own range; one behind by b, within the limit, with c beyond b publishes the part from
NextSeq on, flagged PARTIAL. A publication asks in PAIRED mode for an AWAIT entry of the published range, and then
offers the ARRIVAL record and is counted. Before all this the entries that the advance of NextSeq passes over are
flushed. NextSeq becomes e + 1, the port's waiting frame enters the input, and nothing else changes (R94 to R97, R99,
R109, R110). An entry asked for has creation order 0 until it is created. What an entry asked for comes to (room,
eviction at the cap or at a full pool) and what a flush does, EntriesAreObtainedAndLeave says. On a channel of cap 1 in
PAIRED mode a frame ahead reports its gap at once: what the channel held leaves EVICTED, then the new GAP entry, before
the ARRIVAL record, and the AWAIT entry alone stays (R124). The ARRIVAL record of a classified frame, here and in the
statements below: channel, port, line, frame length, captured bytes and capture stamp as the frame carries them, the
composed time in its snapshot's epoch and quality, reason 0, message count c, first sequence s, the published first and
count given, TRUNCATED when the captured bytes are fewer than the frame length less 4, and TIME_CLAMPED when the
composition clamps (R63, R97, R106, R107). That an offer carries what tells its frame from others is the model's own
(log 35). -/
def Obligations.FrameReachingNextSeqIsPublished : Prop :=
  (∀ (k : PortNo) (f : Classified) (s : State), s.Arrives k f → 1 ≤ f.c →
      let x := s.channel f.channel
      let c := x.settings
      let m := c.modulus
      let by' : FrameTag := { port := f.port, stamp := f.capture.stamp, lane := c.lane }
      let after := (f.s + f.c) % m
      let await (first count : Nat) : Entry :=
        { channel := f.channel
          kind := .await { line := f.line, port := f.port, stamp := f.capture.stamp, delay := f.delay
                           time := f.capture.dated f.delay }
          first := first, count := count, deadline := f.capture.stamp.n + microseconds c.partnerWindow, order := 0 }
      let gap (first count : Nat) : Entry :=
        { channel := f.channel, kind := .gap { port := f.port, time := f.capture.dated f.delay }
          first := first, count := count, deadline := f.capture.stamp.n + microseconds c.gapWindow, order := 0 }
      let own (flags : ArrivalFlags) (first count : Nat) : Offer :=
        { lane := c.lane, source := .table f.channel (some by'), record := f.arrival flags first count }
      let overtaken (next : Nat) : List Entry :=
        (s.collection f.channel).filter fun e => decide (m / 2 < behindBy m next e.first + behindBy m after next)
      let passed (next : Nat) : State := flushEntries (some by') (overtaken next) (s.setInput k none)
      let published (flags : ArrivalFlags) (first count : Nat) (t : State) : State :=
        let asked := if c.mode = .paired then requestEntry by' (await first count) none t else t
        ({ asked with offers := asked.offers ++ [own flags first count] } : State).bump (.table f.channel .published)
      let ends (t : State) : Host.Outcome State Fault Refusal :=
        .next (refillInput k (t.setChannel f.channel { x with nextSeq := some after }))
      (x.nextSeq = none →
        exec (.tableTakeFrame k) s = ends (published { published := true } f.s f.c (s.setInput k none)))
      ∧ ∀ next : Nat, x.nextSeq = some next →
          let d := behindBy m f.s next
          (d = 0 → exec (.tableTakeFrame k) s = ends (published { published := true } f.s f.c (passed next)))
          ∧ (1 ≤ d → d < m / 2 → d ≤ c.resyncLimit → exec (.tableTakeFrame k) s =
              ends (published { published := true } f.s f.c (requestEntry by' (gap next d) none (passed next))))
          ∧ (d ≠ 0 → m / 2 ≤ d → m - d ≤ c.resyncLimit → m - d < f.c → exec (.tableTakeFrame k) s =
              ends (published { published := true, isPartial := true } next (f.c - (m - d)) (passed next)))
          ∧ (1 ≤ d → d < m / 2 → d ≤ c.resyncLimit → overtaken next = [] → c.mode = .paired → c.entryCap = 1 →
              (s.channelEntries f.channel).length ≤ 1 → (s.channelEntries f.channel = [] → s.entries.length < 4096) →
              let gone (e : Entry) : Offer :=
                { lane := c.lane, source := .table f.channel (some by'), record := e.leaving c s.count .evicted }
              ∃ t : State, exec (.tableTakeFrame k) s = .next (refillInput k t)
                ∧ t.channelEntries f.channel = [{ await f.s f.c with order := s.nextOrder + 1 }]
                ∧ t.offers = s.offers ++ (s.channelEntries f.channel ++ [gap next d]).map gone
                    ++ [own { published := true } f.s f.c]))
  ∧ ∀ (f : Classified) (flags : ArrivalFlags) (pubFirst pubCount : Nat),
      let composed := compose f.capture f.delay
      let time : DatedTime :=
        { time := composed.time, epoch := f.capture.snap.epoch, quality := f.capture.snap.quality }
      f.capture.dated f.delay = time
      ∧ f.arrival flags pubFirst pubCount = .arrival
        { channel := some f.channel, port := f.port, line := some f.line
          flags := { flags with truncated := decide (f.captured.length < f.frameLength - 4)
                                timeClamped := composed.clamped }
          time := time, reason := .none, frameLength := f.frameLength, captured := f.captured, msgCount := f.c
          first := f.s, pubFirst := pubFirst, pubCount := pubCount, stamp := f.capture.stamp }

/-- A frame of the present run with c ≥ 1 wholly behind NextSeq, within the resync limit. With s in no entry of the
channel it is stale, and with s in an AWAIT entry of its own line a duplicate, each counted and captured or not by the
reject policy. With s in an AWAIT entry of the other line it is the partner: the PARTNER record with the lead is
offered and the entry leaves. With s in a GAP entry it publishes the part of its range that the gap holds, flagged
FILL: the whole gap removes the entry; a part at one end shortens it in place; a part in the middle leaves the lower
piece in place and asks for a new entry for the upper piece; then, in PAIRED mode, the publication asks for its AWAIT
entry, no request ever evicting the entry that is being filled. NextSeq stays, the port's waiting frame enters the
input, and nothing else changes (R100 to R102, R104 to R106, R109, R122). On a channel of cap 1 in PAIRED mode whose
gap leaves a piece, the entries asked for leave at once, the upper piece as a GAP record and the publication as a
LINE_MISS record, both EVICTED, before the ARRIVAL record, and the piece alone stays (R123). The lead is the difference
of the arrivals at the tap in thirty-seconds, saturated (R65, R66, R103). That an offer carries what tells its frame
from others is the model's own (log 35). -/
def Obligations.FrameBehindMeetsItsEntry : Prop :=
  (∀ (k : PortNo) (f : Classified) (next : Nat) (s : State), s.Arrives k f → 1 ≤ f.c →
      let x := s.channel f.channel
      let c := x.settings
      let m := c.modulus
      let by' : FrameTag := { port := f.port, stamp := f.capture.stamp, lane := c.lane }
      let d := behindBy m f.s next
      x.nextSeq = some next → d ≠ 0 → m / 2 ≤ d → m - d ≤ c.resyncLimit → f.c ≤ m - d →
      let await (first count : Nat) : Entry :=
        { channel := f.channel
          kind := .await { line := f.line, port := f.port, stamp := f.capture.stamp, delay := f.delay
                           time := f.capture.dated f.delay }
          first := first, count := count, deadline := f.capture.stamp.n + microseconds c.partnerWindow, order := 0 }
      let u := s.setInput k none
      let own (r : Record) : Offer := { lane := c.lane, source := .table f.channel (some by'), record := r }
      let offered (r : Record) (t : State) : State := { t with offers := t.offers ++ [own r] }
      let ends (t : State) : Host.Outcome State Fault Refusal := .next (refillInput k t)
      let rejected (flags : ArrivalFlags) (name : TableCounter) : State :=
        let counted := u.bump (.table f.channel name)
        if c.reject = .capture then offered (f.arrival flags 0 0) counted else counted
      let contains (e : Entry) : Prop := behindBy m f.s e.first < e.count
      let held := s.channelEntries f.channel
      ((∀ e ∈ held, ¬contains e) → exec (.tableTakeFrame k) s = ends (rejected { stale := true } .stale))
      ∧ ∀ e ∈ held, contains e → (∀ y ∈ held, contains y → y = e) →
          (∀ w : Winner, e.kind = .await w →
            let lead := leadOf w.stamp w.delay f.capture.stamp f.delay
            let r : PartnerRecord :=
              { channel := f.channel, port := f.port, line := f.line
                misaligned := decide (f.s ≠ e.first ∨ f.c ≠ e.count), inverted := decide (lead < 0)
                time := f.capture.dated f.delay, first := f.s, count := f.c, lead := lead, winnerPort := w.port }
            (w.line = f.line → exec (.tableTakeFrame k) s = ends (rejected { duplicate := true } .duplicates))
            ∧ (w.line ≠ f.line → exec (.tableTakeFrame k) s = ends
                ((offered (.partner r) { u with entries := s.entries.erase e }).bump (.table f.channel .partners))))
          ∧ ∀ o : Opened, e.kind = .gap o →
              let below := behindBy m f.s e.first
              let filled := min f.c (e.count - below)
              let above := e.count - below - filled
              let arrival : Record := f.arrival { published := true, fill := true } f.s filled
              let published (filling : Option (BitVec 32)) (t : State) : State :=
                let asked := if c.mode = .paired then requestEntry by' (await f.s filled) filling t else t
                (offered arrival asked).bump (.table f.channel .published)
              let lower : Entry := { e with count := below }
              let upper : Entry := { e with first := (f.s + filled) % m, count := above }
              let keeps (piece : Entry) : State :=
                { u with entries := s.entries.map fun y => if y = e then piece else y }
              (below = 0 → above = 0 → exec (.tableTakeFrame k) s =
                ends (published none { u with entries := s.entries.erase e }))
              ∧ (below ≠ 0 → above = 0 → exec (.tableTakeFrame k) s = ends (published (some e.order) (keeps lower)))
              ∧ (below = 0 → above ≠ 0 → exec (.tableTakeFrame k) s = ends (published (some e.order) (keeps upper)))
              ∧ (below ≠ 0 → above ≠ 0 → exec (.tableTakeFrame k) s =
                  ends (published (some e.order) (requestEntry by' upper (some e.order) (keeps lower))))
              ∧ (c.mode = .paired → c.entryCap = 1 → held = [e] → below + above ≠ 0 →
                  let gone (y : Entry) : Offer := own (y.leaving c s.count .evicted)
                  ∃ t : State, exec (.tableTakeFrame k) s = ends t
                    ∧ t.channelEntries f.channel = [if below = 0 then upper else lower]
                    ∧ t.offers = s.offers ++ (if below ≠ 0 ∧ above ≠ 0 then [gone upper] else [])
                        ++ [gone (await f.s filled), own arrival]))
  ∧ ∀ (w p : Stamp) (winnerDelay delay : Nat),
      let exact : Int := (p.n - w.n).toInt * 80 + 5 * ((p.p.toNat : Int) - w.p.toNat) - ((delay : Int) - winnerDelay)
      leadOf w winnerDelay p delay = max (-2147483647) (min 2147483647 exact)

/-- A frame or heartbeat of the present run ahead or behind by more than the resync limit: every entry of the channel
leaves in the order of R91 as a record flagged FLUSHED; then come the RESYNC record and, for a frame, its publication
flagged RESYNC, with its AWAIT entry in PAIRED mode, or, for a heartbeat, its ARRIVAL record flagged HEARTBEAT and
RESYNC. NextSeq becomes e + 1, or s for a heartbeat, the resync is counted, the port's waiting frame enters the input,
and nothing else changes: entries of other channels stay (R97, R98, R108, R109, R110, R125). The AWAIT entry finds the
channel empty, and is created when the pool has room (R121, R125). That an offer carries what tells its frame from
others is the model's own (log 35). -/
def Obligations.FrameFarAwayResynchronises : Prop :=
  ∀ (k : PortNo) (f : Classified) (next : Nat) (direction : Direction) (s : State), s.Arrives k f →
    let x := s.channel f.channel
    let c := x.settings
    let m := c.modulus
    let by' : FrameTag := { port := f.port, stamp := f.capture.stamp, lane := c.lane }
    let d := behindBy m f.s next
    x.nextSeq = some next → d ≠ 0 →
    (direction = .ahead ∧ d < m / 2 ∧ c.resyncLimit < d ∨ direction = .behind ∧ m / 2 ≤ d ∧ c.resyncLimit < m - d) →
    let after := (f.s + f.c) % m
    let await (first count : Nat) : Entry :=
      { channel := f.channel
        kind := .await { line := f.line, port := f.port, stamp := f.capture.stamp, delay := f.delay
                         time := f.capture.dated f.delay }
        first := first, count := count, deadline := f.capture.stamp.n + microseconds c.partnerWindow, order := 0 }
    let flushed := s.collection f.channel
    let r : ResyncRecord :=
      { channel := f.channel, port := f.port, line := f.line, time := s.reading, oldNext := next
        newNext := after, direction := direction, flushed := flushed.length }
    let own (y : Record) : Offer := { lane := c.lane, source := .table f.channel (some by'), record := y }
    let cleared := flushEntries (some by') flushed (s.setInput k none)
    let told : State := { cleared with offers := cleared.offers ++ [own (.resync r)] }
    let asked := if 1 ≤ f.c ∧ c.mode = .paired then requestEntry by' (await f.s f.c) none told else told
    let taken : State :=
      if f.c = 0 then
        { asked with offers := asked.offers ++ [own (f.arrival { heartbeat := true, resync := true } 0 0)] }
      else
        ({ asked with
            offers := asked.offers ++ [own (f.arrival { published := true, resync := true } f.s f.c)] } : State).bump
          (.table f.channel .published)
    cleared.entries = s.entries.filter (fun e => decide (e.channel ≠ f.channel))
    ∧ cleared.offers = s.offers ++ flushed.map (fun e => own (e.leaving c s.count .flushed))
    ∧ (1 ≤ c.entryCap → told.entries.length < 4096 → requestEntry by' (await f.s f.c) none told =
        { told with entries := insertEntry { await f.s f.c with order := s.nextOrder } told.entries
                    nextOrder := s.nextOrder + 1 })
    ∧ exec (.tableTakeFrame k) s = .next (refillInput k
        ((taken.setChannel f.channel { x with nextSeq := some after }).bump (.table f.channel .resyncs)))

/-- A heartbeat of the present run. With NextSeq unset it sets it and is recorded; in order it is only recorded; ahead
within the resync limit, the entries that the advance passes over being flushed first, it asks for a GAP entry of the
skipped sequences, is recorded, and NextSeq becomes its s; behind within the limit it is recorded as stale and counted.
Then the port's waiting frame enters the input; nothing else changes (R107, R108, R110). In no case, a resync included
(for which see FrameFarAwayResynchronises), does it count as published or make an AWAIT entry. That an offer carries
what tells its frame from others is the model's own (log 35). -/
def Obligations.HeartbeatIsRecordedAndNotPublished : Prop :=
  ∀ (k : PortNo) (f : Classified) (s : State), s.Arrives k f → f.c = 0 →
    let x := s.channel f.channel
    let c := x.settings
    let m := c.modulus
    let by' : FrameTag := { port := f.port, stamp := f.capture.stamp, lane := c.lane }
    f.s < m →
    let u := s.setInput k none
    let recorded (flags : ArrivalFlags) (t : State) : State :=
      { t with offers := t.offers ++
        [{ lane := c.lane, source := .table f.channel (some by')
           record := f.arrival { flags with heartbeat := true } 0 0 }] }
    let ends (t : State) : Host.Outcome State Fault Refusal := .next (refillInput k t)
    (x.nextSeq = none →
      exec (.tableTakeFrame k) s = ends (recorded {} (u.setChannel f.channel { x with nextSeq := some f.s })))
    ∧ (∀ next : Nat, x.nextSeq = some next →
        let d := behindBy m f.s next
        let gap : Entry :=
          { channel := f.channel, kind := .gap { port := f.port, time := f.capture.dated f.delay }
            first := next, count := d, deadline := f.capture.stamp.n + microseconds c.gapWindow, order := 0 }
        let overtaken := (s.collection f.channel).filter fun e => decide (m / 2 < behindBy m next e.first + d)
        let revealed := requestEntry by' gap none (flushEntries (some by') overtaken u)
        (d = 0 → exec (.tableTakeFrame k) s = ends (recorded {} u))
        ∧ (1 ≤ d → d < m / 2 → d ≤ c.resyncLimit → exec (.tableTakeFrame k) s =
            ends ((recorded {} revealed).setChannel f.channel { x with nextSeq := some f.s }))
        ∧ (d ≠ 0 → m / 2 ≤ d → m - d ≤ c.resyncLimit → exec (.tableTakeFrame k) s =
            ends ((recorded { stale := true } u).bump (.table f.channel .stale))))
    ∧ ∀ t : State, exec (.tableTakeFrame k) s = .next t →
        t.counters.get (.table f.channel .published) = s.counters.get (.table f.channel .published)
        ∧ ∀ e ∈ t.entries, ∀ w : Winner, e.kind = .await w → e ∈ s.entries

/-- An entry that a frame asks for: with room in its channel and in the pool it is created, with the next creation
order, at its place in the queue; with the channel at its cap the channel's first entry in queue order, but for the gap
being filled, leaves first as a record flagged EVICTED on its own channel's lane, and where there is no such entry the
one asked for is not created and leaves at once as that record; with the pool full the first entry of the pool leaves
so, and the pool counter gains 1 (R90, R115, R121, R122, R123, R127). The record of an entry that leaves, with the time
since the winner's or the revealing frame's capture (R116, R118, R119), and its counter (R127). A flush: the entries
leave, their records flagged FLUSHED are offered in the order given, each on its channel's lane and each counted, and
nothing else changes (R125, R127). A channel's collection is its entries, farthest behind NextSeq first (R91), and how
far a sequence stands behind is the distance modulo M, which is 2^32 or 2^64 by the width of the sequence (R80, R91). A
microsecond is 400 cycles. That an offer carries what tells its frame from others is the model's own (log 35). -/
def Obligations.EntriesAreObtainedAndLeave : Prop :=
  (∀ (by' : FrameTag) (e : Entry) (filling : Option (BitVec 32)) (s : State),
      let cap := (s.channel e.channel).settings.entryCap
      let held := s.entries.filter fun v => decide (v.channel = e.channel)
      let first (among : List Entry) : Option Entry := (among.filter fun v => decide (some v.order ≠ filling)).head?
      let created (t : State) : State :=
        { t with entries := insertEntry { e with order := s.nextOrder } t.entries, nextOrder := s.nextOrder + 1 }
      let reported (v : Entry) (t : State) : State :=
        let c := (s.channel v.channel).settings
        let o : Offer :=
          { lane := c.lane, source := .table v.channel (some by'), record := v.leaving c s.count .evicted }
        (({ t with offers := t.offers ++ [o] } : State).bump v.lossCounter).bump (.expiry v.channel .evictions)
      let without (v : Entry) : State := { s with entries := s.entries.erase v }
      (held.length < cap → s.entries.length < 4096 → requestEntry by' e filling s = created s)
      ∧ (∀ v : Entry, cap ≤ held.length → first held = some v →
          requestEntry by' e filling s = created (reported v (without v)))
      ∧ (cap ≤ held.length → first held = none → requestEntry by' e filling s = reported e s)
      ∧ (∀ v : Entry, held.length < cap → 4096 ≤ s.entries.length → first s.entries = some v →
          requestEntry by' e filling s = created ((reported v (without v)).bump .poolFull))
      ∧ (insertEntry e s.entries).Perm (e :: s.entries))
  ∧ (∀ (e : Entry) (c : ChannelSettings) (now : Count) (why : Removal),
      let reached := decide ((now - e.deadline).toNat < 2 ^ 63)
      (∀ w : Winner, e.kind = .await w →
        e.lossCounter = .expiry e.channel .lineMisses
        ∧ e.leaving c now why = .lineMiss
            { channel := e.channel, port := w.port, line := w.line, removal := why, time := w.time, first := e.first
              count := e.count, reached := reached, held := min 4294967295 ((now - w.stamp.n).toNat / 400) })
      ∧ (∀ o : Opened, e.kind = .gap o →
        e.lossCounter = .expiry e.channel .gaps
        ∧ e.leaving c now why = .gap
            { channel := e.channel, port := o.port, removal := why, time := o.time, first := e.first, count := e.count
              reached := reached
              held := min 4294967295 ((now - (e.deadline - BitVec.ofNat 64 (c.gapWindow * 400))).toNat / 400) }))
  ∧ (∀ (by' : Option FrameTag) (es : List Entry) (s : State), ∃ counters : Counters,
      flushEntries by' es s =
        { s with
          entries := s.entries.diff es
          offers := s.offers ++ es.map fun e =>
            let c := (s.channel e.channel).settings
            { lane := c.lane, source := .table e.channel by', record := e.leaving c s.count .flushed }
          counters := counters }
      ∧ ∀ c : Counter,
          counters.get c = s.counters.get c + BitVec.ofNat 64 (es.countP fun e => decide (e.lossCounter = c)))
  ∧ (∀ (ch : ChannelNo) (s : State),
      let m := (s.channel ch).settings.modulus
      let next := (s.channel ch).nextSeq.getD 0
      (s.collection ch).Perm (s.entries.filter fun e => decide (e.channel = ch))
      ∧ (s.collection ch).Pairwise (fun a b => behindBy m next b.first ≤ behindBy m next a.first))
  ∧ (∀ m next first : Nat, first < m → next < m →
      behindBy m next first < m ∧ (first + behindBy m next first) % m = next)
  ∧ (∀ us : Nat, microseconds us = BitVec.ofNat 64 (us * 400))
  ∧ (∀ c : ChannelSettings, c.modulus = 2 ^ (8 * c.sequence.width))
  ∧ ∀ (ch : ChannelNo) (s : State), s.channelEntries ch = s.entries.filter fun e => decide (e.channel = ch)

/-- The head of the Expiry Queue leaves when it is due: as a LINE_MISS or a GAP record on its channel's lane, counted,
deadline reached yes and no flag set; NextSeq, and everything else, stays. A head that is not due stays, and an empty
queue gives nothing (log 2) (R117 to R120, R127). An entry is due when the count less its deadline, modulo 2^64, is
less than 2^63 (R117). -/
def Obligations.DueHeadExpires : Prop :=
  (∀ s : State,
      (s.entries = [] → exec .expiry s = .next s)
      ∧ ∀ (e : Entry) (rest : List Entry), s.entries = e :: rest →
          let x := (s.channel e.channel).settings
          let gone : State := { s with entries := rest }
          let left (r : Record) (c : ExpiryCounter) : Host.Outcome State Fault Refusal :=
            .next ((gone.offer x.lane (.table e.channel none) r).bump (.expiry e.channel c))
          (reached s.count e.deadline = false → exec .expiry s = .next s)
          ∧ (∀ w : Winner, reached s.count e.deadline = true → e.kind = .await w → exec .expiry s = left
              (.lineMiss
                { channel := e.channel, port := w.port, line := w.line, removal := .expired, time := w.time
                  first := e.first, count := e.count, reached := true
                  held := min 4294967295 ((s.count - w.stamp.n).toNat / 400) })
              .lineMisses)
          ∧ (∀ o : Opened, reached s.count e.deadline = true → e.kind = .gap o → exec .expiry s = left
              (.gap
                { channel := e.channel, port := o.port, removal := .expired, time := o.time
                  first := e.first, count := e.count, reached := true
                  held := min 4294967295
                    ((s.count - (e.deadline - BitVec.ofNat 64 (x.gapWindow * 400))).toNat / 400) })
              .gaps))
  ∧ ∀ now deadline : Count, reached now deadline = true ↔ (now - deadline).toNat < 2 ^ 63

/-! ### The Reference Discipline Unit -/

/-- An active edge with the discipline enabled: accepted always in FREE and HOLDOVER, and in ACQUIRING and LOCKED when
its count lies 399,600,000 to 400,400,000 after the last accepted edge; else it is only counted as irregular. An
accepted edge is counted, becomes the last one, starts the timer, moves FREE and HOLDOVER to ACQUIRING with the count
0 and CAUSE TIME, and makes pending settings active; with its capture and the settings then in force it takes the latch
or waits for it (log 20). Any other edge changes nothing (R39, R40, R46, R48, R51, R52). That CAUSE TIME of the move to
ACQUIRING is set with the edge is the model's choice (log 17), and so is that the snapshot keeps the increment of the
running cycle when an S is adopted (log 42). The holdover timer expires when it runs, the state is ACQUIRING or LOCKED,
and the count has reached the last accepted edge plus 800,000,000, by the test modulo 2^64 that the model takes for
every timer (log 40): HOLDOVER, the count 0, the timer stopped, the counter, the TIME record of the event and CAUSE
TIME; otherwise nothing happens (log 2) (R41, R46, R47, R54). -/
def Obligations.EdgesAreTimedAndMissed : Prop :=
  (∀ (edge : EdgeKind) (within : CycleFraction) (s : State), within.wf = true →
      let d := s.discipline
      let begins := d.state = .free ∨ d.state = .holdover
      let inWindow := ∃ last : Count, d.lastAccepted = some last
        ∧ 399600000 ≤ (s.count - last).toNat ∧ (s.count - last).toNat ≤ 400400000
      (d.enabled = false ∨ edge ≠ d.polarity → exec (.ppsEdge edge within) s = .next s)
      ∧ (d.enabled = true → edge = d.polarity → ¬begins → ¬inWindow →
          exec (.ppsEdge edge within) s = .next (s.bump (.discipline .irregular)))
      ∧ (d.enabled = true → edge = d.polarity → begins ∨ inWindow → ∃ phase : BitVec 4,
          let active := d.pending.getD d.active
          let e : Edge :=
            { capture :=
                { stamp := { n := s.count, p := phase }
                  snap := { sec := s.timebase.sec, sub := s.timebase.sub, increment := s.increment
                            epoch := s.timebase.epoch, quality := d.state } }
              settings := active, stage := .captured }
          let after : Discipline :=
            { d with state := if begins then .acquiring else d.state, good := if begins then 0 else d.good
                     lastAccepted := some s.count, timer := true
                     active := active, pending := none, latch := some (d.latch.getD e)
                     waiting := if d.latch = none then d.waiting else d.waiting ++ [e] }
          let counted := ({ s with discipline := after } : State).bump (.discipline .accepted)
          phase.toNat * within.den ≤ within.num * 16 ∧ within.num * 16 < (phase.toNat + 1) * within.den
          ∧ exec (.ppsEdge edge within) s = .next (if begins then counted.setCause .time else counted)))
  ∧ (∀ (last : Count) (s : State), s.discipline.lastAccepted = some last →
      let d := s.discipline
      let due := d.timer = true ∧ (d.state = .acquiring ∨ d.state = .locked) ∧ reached s.count (last + 800000000) = true
      let u := ({ s with discipline := { d with state := .holdover, good := 0, timer := false } } : State).bump
        (.discipline .holdovers)
      let r : TimeRecord :=
        { event := .holdover, state := .holdover, stepped := false, held := false, setAside := false, error := d.lastError
          freq := s.timebase.freq, slewNs := slewNs s.timebase.slew, time := { s.reading with quality := .holdover } }
      (¬due → exec .holdoverExpiry s = .next s)
      ∧ (due → exec .holdoverExpiry s = .next ((u.offerOrDiscard d.lane .discipline (.time r)).setCause .time)))
  ∧ ∀ s : State, s.discipline.lastAccepted = none → exec .holdoverExpiry s = .next s

/-- The edge in the latch is measured and its correction handed over: E is the composed subsecond in thirty-seconds,
less a second from half a second on; a step of −E beyond the step threshold unless that is 0; else, with backward slew
off and E above 0, a held frequency change; else the frequency change −(E × gain / 512), rounded, and a slew of −E;
nothing else changes. Without a captured edge nothing happens (log 2), and the held counter gains 1 here (log 18) (R42
to R44). The settings are those that the edge carries (log 20). The Timebase takes the correction of the edge in the
latch: set aside and counted when its epoch is no longer the capture's; otherwise the step of that offset, or F changed
within ±200,000 and R replaced within half a second, or F alone; the edge keeps the answer with the F and R just after
it. In HOLDOVER F is frozen against the servo, while a step and R are still applied (log 39). The STEP record of a
discipline step carries the state before the lock test (log 16). With no correction handed nothing happens (log 2)
(R30, R35, R41, R45). Rounded, here and in every statement, is to the nearest integer, halves away from zero (00,
Rounding). -/
def Obligations.EdgeErrorIsCorrectedOrSetAside : Prop :=
  (∀ s : State,
      ((∀ e ∈ s.discipline.latch, e.stage ≠ .captured) → exec .edgeProcess s = .next s)
      ∧ ∀ e : Edge, s.discipline.latch = some e → e.stage = .captured →
          let a := e.settings
          let composed := compose e.capture a.ppsDelay
          let error : Int := if composed.q / 32 < 500000000 then composed.q else composed.q - 32000000000
          let m : Measured :=
            { error := error
              time := { time := composed.time, epoch := e.capture.snap.epoch, quality := e.capture.snap.quality } }
          let handed (c : Correction) : State :=
            { s with discipline :=
              { s.discipline with lastError := error, latch := some { e with stage := .handed m c } } }
          let change := -roundDiv (error * a.gain) 512
          let steps := a.stepThreshold ≠ 0 ∧ a.stepThreshold * 32 < error.natAbs
          let holds := a.backwardSlew = false ∧ 0 < error
          (steps → exec .edgeProcess s = .next (handed (.step (-error))))
          ∧ (¬steps → holds → exec .edgeProcess s = .next ((handed (.held change)).bump (.discipline .held)))
          ∧ (¬steps → ¬holds → exec .edgeProcess s = .next (handed (.slew change (-error * 134217728)))))
  ∧ (∀ s : State,
      ((∀ e ∈ s.discipline.latch, ∀ m c, e.stage ≠ .handed m c) → exec .disciplineCorrection s = .next s)
      ∧ ∀ (e : Edge) (m : Measured) (c : Correction), s.discipline.latch = some e → e.stage = .handed m c →
          let b := s.timebase
          let answered (t : State) (applied : Bool) : Host.Outcome State Fault Refusal :=
            .next { t with discipline :=
              { t.discipline with
                latch := some { e with stage := .answered m c applied t.timebase.freq t.timebase.slew } } }
          let freq (change : Int) : Int :=
            if s.discipline.state = .holdover then b.freq else max (-200000) (min 200000 (b.freq + change))
          (b.epoch ≠ e.capture.snap.epoch →
            exec .disciplineCorrection s = answered (s.bump (.discipline .setAside)) false)
          ∧ (b.epoch = e.capture.snap.epoch →
              (∀ offset : Int, c = .step offset → exec .disciplineCorrection s =
                answered (stepBy .discipline (offset * 134217728) (roundDiv offset 32) s) true)
              ∧ (∀ change slew : Int, c = .slew change slew → exec .disciplineCorrection s =
                answered { s with timebase :=
                  { b with freq := freq change
                           slew := max (-2147483648000000000) (min 2147483648000000000 slew) } } true)
              ∧ (∀ change : Int, c = .held change → exec .disciplineCorrection s =
                answered { s with timebase := { b with freq := freq change } } true)))
  ∧ (∀ (num : Int) (den : Nat), 0 < den →
      let q := roundDiv num den
      2 * (q * den - num).natAbs ≤ den ∧ (2 * (q * den - num).natAbs = den → num.natAbs < (q * den).natAbs))
  ∧ ∀ r : Int, slewNs r = roundDiv r 4294967296

/-- The end of an edge: with an error within the lock threshold the count gains 1, to at most 4, and ACQUIRING with a
count of 4 becomes LOCKED; beyond it, or after a step, the count is 0 and LOCKED becomes ACQUIRING; a set-aside edge
leaves both. Then the TIME record of the edge, CAUSE TIME on a change of state, and the latch for the first waiting
edge; nothing else changes. With no answered edge nothing happens (log 2) (R39, R43, R45 to R47). A record may carry
HELD and SET_ASIDE together (log 18); the lock test of an edge that completes in HOLDOVER still counts (log 39); the
record of a set-aside edge carries the state at this moment, whatever came between its qualification and now (log
43). -/
def Obligations.EdgeEndsWithLockTestAndRecord : Prop :=
  ∀ s : State,
    ((∀ e ∈ s.discipline.latch, ∀ m c a f r, e.stage ≠ .answered m c a f r) → exec .edgeComplete s = .next s)
    ∧ ∀ (e : Edge) (m : Measured) (c : Correction) (applied : Bool) (f r : Int),
        s.discipline.latch = some e → e.stage = .answered m c applied f r →
        let d := s.discipline
        let isStep := ∃ offset : Int, c = .step offset
        let within := m.error.natAbs ≤ e.settings.lockThreshold * 32
        let ended (good : Nat) (state : Quality) (stepped : Bool) : Host.Outcome State Fault Refusal :=
          let record : TimeRecord :=
            { event := .edge, state := state, stepped := stepped, held := c.isHeld, setAside := !applied
              error := m.error, freq := f, slewNs := slewNs r, time := m.time }
          let free : State :=
            { s with discipline :=
              { d with good := good, state := state, latch := d.waiting.head?, waiting := d.waiting.tail } }
          let offered := free.offerOrDiscard d.lane .discipline (.time record)
          .next (if state = d.state then offered else offered.setCause .time)
        let fallen := if d.state = .locked then .acquiring else d.state
        let good := min (d.good + 1) 4
        (applied = false → exec .edgeComplete s = ended d.good d.state false)
        ∧ (applied = true → isStep → exec .edgeComplete s = ended 0 fallen true)
        ∧ (applied = true → ¬isStep → ¬within → exec .edgeComplete s = ended 0 fallen false)
        ∧ (applied = true → ¬isStep → within → exec .edgeComplete s =
            ended good (if d.state = .acquiring ∧ good = 4 then .locked else d.state) false)

/-! ### Requests of the Timebase and the discipline -/

/-- A step to a DTC value, as one number of sub-units, with the offset its record carries: seconds modulo 2^32 and
subsecond, the epoch plus 1, R cleared, the counter of the cause, one STEP record with the old time, cause and offset
offered on each lane from L0 on, and CAUSE TIME; nothing else changes (R28, R29). SET_TIME: nanoseconds above
999,999,999 are refused (with a result that carries the epoch: log 11); otherwise the DTC takes the seconds and
nanoseconds given, by a SET step whose offset is their distance from the old time in nanoseconds, rounded; the
discipline's count becomes 0 and LOCKED becomes ACQUIRING; the result carries the old time and the new epoch (R31,
R32). -/
def Obligations.SetTimeStepsAndReports : Prop :=
  (∀ (cause : StepCause) (total : Nat) (offset : Int) (s : State),
      let b := s.timebase
      let moved : State :=
        { s with timebase :=
          { sec := BitVec.ofNat 32 (total / 4294967296000000000), sub := total % 4294967296000000000, freq := b.freq
            slew := 0, slewRate := b.slewRate, epoch := b.epoch + 1 } }
      let counter : TimebaseCounter :=
        match cause with
        | .set => .setSteps
        | .adjust => .adjustSteps
        | .discipline => .disciplineSteps
      let r : Record := .step
        { cause := cause, oldSec := b.sec, oldNs := b.sub / 4294967296, offset := offset, time := moved.reading }
      let offer (l : LaneNo) : Offer := { lane := l, source := .timebase, record := r }
      stepTo cause total offset s =
          ({ moved.bump (.timebase counter) with offers := s.offers ++ [offer 0, offer 1, offer 2, offer 3] } : State).setCause
            .time
        ∧ ∀ (by' : Int) (offsetNs : Int),
            stepBy cause by' offsetNs s = stepTo cause (max 0 (b.total + by')) offsetNs s)
  ∧ (∀ (slot : List Byte) (s : State), s.Holds 0x01 slot →
      let sec := leNat (fieldAt slot 8 4)
      let ns := leNat (fieldAt slot 12 4)
      let b := s.timebase
      let d := s.discipline
      let total : Int := sec * Config.oneSecond + ns * Config.oneNanosecond
      (999999999 < ns → exec .setTime s =
        .next (s.returns .badParam (zeros 8 ++ leBytes 2 b.epoch.toNat ++ zeros 6)))
      ∧ (ns ≤ 999999999 →
          let u : State :=
            { s with discipline := { d with good := 0, state := if d.state = .locked then .acquiring else d.state } }
          let t := stepTo .set total (roundDiv (total - b.total) Config.oneNanosecond) u
          t.timebase = { sec := BitVec.ofNat 32 sec, sub := ns * 4294967296, freq := b.freq, slew := 0
                         slewRate := b.slewRate, epoch := b.epoch + 1 }
          ∧ exec .setTime s = .next (t.returns .ok
              (leBytes 4 b.sec.toNat ++ leBytes 4 (b.sub / 4294967296) ++ leBytes 2 (b.epoch + 1).toNat ++ zeros 6))))

/-- ADJUST_TIME: an offset beyond ±999,999,999 ns or a mode that is neither STEP nor SLEW is refused (log 11). In STEP
mode the Timebase steps by the offset; in SLEW mode R gains the offset, within half a second, with ADJUSTED when the
limit cuts it, and no step follows. The result carries the epoch and the new time, or the epoch and R in nanoseconds
(R31, R33, R34). SET_FREQUENCY: F becomes the value given within ±200,000, with ADJUSTED when the limit cuts it; the
result carries F and the epoch; nothing else changes (R31, R35). -/
def Obligations.AdjustTimeAndSetFrequency : Prop :=
  (∀ (slot : List Byte) (s : State), s.Holds 0x02 slot →
      let offset := signedOf 4 (leNat (fieldAt slot 8 4))
      let mode := leNat (fieldAt slot 12 1)
      let b := s.timebase
      let refused := 999999999 < offset.natAbs ∨ 1 < mode
      (refused → exec .adjustTime s = .next (s.returns .badParam (leBytes 2 b.epoch.toNat ++ zeros 14)))
      ∧ (¬refused → mode = 0 →
          let t := stepBy .adjust (offset * 4294967296) offset s
          exec .adjustTime s = .next (t.returns .ok
            (leBytes 2 (b.epoch + 1).toNat ++ zeros 2 ++ leBytes 4 t.timebase.sec.toNat
              ++ leBytes 4 (t.timebase.sub / 4294967296) ++ zeros 4)))
      ∧ (¬refused → mode = 1 →
          let sum := b.slew + offset * 4294967296
          let r := max (-2147483648000000000) (min 2147483648000000000 sum)
          let t : State := { s with timebase := { b with slew := r } }
          exec .adjustTime s = .next (t.returns (if r = sum then .ok else .adjusted)
            (leBytes 2 b.epoch.toNat ++ zeros 10 ++ leInt 4 (roundDiv r 4294967296)))))
  ∧ (∀ (slot : List Byte) (s : State), s.Holds 0x03 slot →
      let given := signedOf 4 (leNat (fieldAt slot 8 4))
      let f := max (-200000) (min 200000 given)
      let t : State := { s with timebase := { s.timebase with freq := f } }
      exec .setFrequency s = .next (t.returns (if f = given then .ok else .adjusted)
        (leInt 4 f ++ leBytes 2 s.timebase.epoch.toNat ++ zeros 10)))

/-- DISCIPLINE_SET: an enable, polarity, backward-slew or lamp-polarity that is none of its two values, a lane that is
neither 0 to 3 nor none (FFh), or a step threshold above 999,999,999 is refused, with a result of 0 (log 11). Otherwise
enable, polarity, lane and lamp polarity change at once; the six adoption settings, the tunable ones clamped, wait as
pending while the unit stays or becomes enabled, and are active at once, S governing the running cycle, when it stays or
becomes disabled (log 42); a unit that goes off becomes FREE with its timer, latch and waiting edges cleared, and leaves
any other state with a TIME record and CAUSE TIME; an edge whose correction the Timebase has already taken is completed
first, with the lane that stood before (log 19) (R45, R50 to R53, R171, R172). -/
def Obligations.DisciplineSetTakesItsSettings : Prop :=
  ∀ (slot : List Byte) (s : State), s.Holds 0x04 slot →
    let number (offset width : Nat) : Nat := leNat (fieldAt slot offset width)
    let refused := 1 < number 8 1 ∨ 1 < number 9 1 ∨ 1 < number 10 1 ∨ 1 < number 11 1
      ∨ (3 < number 12 1 ∧ number 12 1 ≠ 0xFF) ∨ 999999999 < number 16 4
    (refused → exec .disciplineSet s = .next (s.returns .badParam (zeros 16)))
    ∧ (¬refused →
        let d := s.discipline
        let g : Adoption :=
          { ppsDelay := number 14 2, stepThreshold := number 16 4, slewRate := number 20 2
            backwardSlew := decide (number 10 1 = 1), gain := number 13 1, lockThreshold := number 24 4 }
        let a : Adoption :=
          { g with slewRate := max 1 (min 500 g.slewRate), gain := min 15 g.gain
                   lockThreshold := max 1 (min 1000000 g.lockThreshold) }
        let lane : Option LaneNo := if h : number 12 1 < 4 then some ⟨number 12 1, h⟩ else none
        let now : Discipline :=
          { d with enabled := decide (number 8 1 = 1), polarity := if number 9 1 = 0 then .rising else .falling
                   lampPolarity := if number 11 1 = 0 then .activeHigh else .activeLow, lane := lane }
        let set (t : State) : Host.Outcome State Fault Refusal :=
          let state : Nat :=
            match t.discipline.state with
            | .free => 0
            | .acquiring => 1
            | .locked => 2
            | .holdover => 3
          .next (t.returns (if a = g then .ok else .adjusted)
            (leBytes 2 a.ppsDelay ++ leBytes 2 a.slewRate ++ leBytes 4 a.stepThreshold ++ leBytes 4 a.lockThreshold
              ++ leBytes 1 a.gain ++ leBytes 1 state ++ leBytes 1 t.discipline.good ++ leBytes 1 (number 8 1)))
        let rate : Timebase := { s.timebase with slewRate := a.slewRate }
        let off : State :=
          { s with
            timebase := rate
            discipline :=
              { now with active := a, pending := none, timer := false, latch := none, waiting := [], good := 0
                         state := .free } }
        let r : TimeRecord :=
          { event := .disabled, state := .free, stepped := false, held := false, setAside := false
            error := d.lastError, freq := s.timebase.freq, slewNs := slewNs s.timebase.slew, time := off.reading }
        (number 8 1 = 1 → exec .disciplineSet s = set { s with discipline := { now with pending := some a } })
        ∧ (number 8 1 = 0 → d.enabled = false → exec .disciplineSet s =
            set { s with timebase := rate, discipline := { now with active := a, pending := none } })
        ∧ (number 8 1 = 0 → d.enabled = true → (∃ e ∈ d.latch, ∃ m c b f q, e.stage = .answered m c b f q) →
            ∀ t : State, exec .edgeComplete s = .next t → exec .disciplineSet s =
              exec .disciplineSet { t with discipline := { t.discipline with latch := none, waiting := [] } })
        ∧ (number 8 1 = 0 → d.enabled = true → (∀ e ∈ d.latch, ∀ m c b f q, e.stage ≠ .answered m c b f q) →
            (d.state = .free → exec .disciplineSet s = set off)
            ∧ (d.state ≠ .free → exec .disciplineSet s =
                set ((off.offerOrDiscard lane .discipline (.time r)).setCause .time))))

/-! ### Requests of the ports, the Classifier and the Table -/

/-- PORT_SET: a port number above 7, a notice lane that is neither 0 to 3 nor none (FFh), or an enable, policy, fence or
lamp-polarity that is none of its two values is refused, with a result of 0 (log 11). Otherwise the settings change at
one moment, the snap length rounded up to 8 and limited to 1,536; a port that becomes ENABLED begins an error window at
this count and builds a PORT record with CAUSE PORT; one that becomes DISABLED loses its window and its frame in
reception, counted as aborted; the result carries the snap length, the reported link and the health (R3, R7, R15, R18,
R171, R172). PORT_READMIT: a port number out of range is refused (log 11); a FENCED port becomes NORMAL, and on an
ENABLED port a new error window begins and a PORT record is built with CAUSE PORT; any other health stays; the result
carries the health (R15, R19). -/
def Obligations.PortSetAndReadmitTakeEffect : Prop :=
  (∀ (slot : List Byte) (s : State), s.Holds 0x10 slot →
      let number (offset width : Nat) : Nat := leNat (fieldAt slot offset width)
      let refused := 7 < number 8 1 ∨ 1 < number 9 1 ∨ (3 < number 10 1 ∧ number 10 1 ≠ 0xFF) ∨ 1 < number 11 1
        ∨ 1 < number 12 1 ∨ 1 < number 13 1 ∨ 1 < number 14 1
      (refused → exec .portSet s = .next (s.returns .badParam (zeros 16)))
      ∧ ∀ k : PortNo, number 8 1 = k → ¬refused →
          let p := s.port k
          let snap := min 1536 ((number 18 2 + 7) / 8 * 8)
          let lane : Option LaneNo := if h : number 10 1 < 4 then some ⟨number 10 1, h⟩ else none
          let q : Port :=
            { p with settings :=
              { frame :=
                  { delay := number 16 2, noticeLane := lane
                    unmapped := if number 11 1 = 0 then .ignore else .capture
                    badFrame := if number 12 1 = 0 then .ignore else .capture, snap := snap }
                threshold := number 20 2, fence := decide (number 13 1 = 1)
                lampPolarity := if number 14 1 = 0 then .activeHigh else .activeLow } }
          let health : Nat :=
            match p.health with
            | .normal => 0
            | .degraded => 1
            | .fenced => 2
          let set (t : State) (link : Nat) : Host.Outcome State Fault Refusal :=
            .next (t.returns (if snap = number 18 2 then .ok else .adjusted)
              (leBytes 2 snap ++ leBytes 1 link ++ leBytes 1 health ++ zeros 12))
          let link := match p.link with
            | .down => 1
            | .up => 2
          let r : PortRecord := { port := k, link := p.link, health := p.health, windowCount := 0, time := s.reading }
          let on := s.setPort k { q with enabled := true, windowStart := some s.count, windowCount := 0 }
          let off := s.setPort k { q with enabled := false, windowStart := none, windowCount := 0, latch := none }
          (number 9 1 = 0 → p.enabled = false → exec .portSet s = set (s.setPort k q) 0)
          ∧ (number 9 1 = 1 → p.enabled = true → exec .portSet s = set (s.setPort k q) link)
          ∧ (number 9 1 = 1 → p.enabled = false → exec .portSet s =
              set ((on.offerOrDiscard lane (.port k) (.port r)).setCause .port) link)
          ∧ (number 9 1 = 0 → p.enabled = true → exec .portSet s =
              set (if p.latch = none then off else off.bump (.port k .aborted)) 0))
  ∧ (∀ (slot : List Byte) (s : State), s.Holds 0x11 slot →
      let n := leNat (fieldAt slot 8 1)
      (8 ≤ n → exec .portReadmit s = .next (s.returns .badParam (zeros 16)))
      ∧ ∀ k : PortNo, n = k →
          let p := s.port k
          let q := s.setPort k { p with health := .normal, windowStart := some s.count, windowCount := 0 }
          let r : PortRecord := { port := k, link := p.link, health := .normal, windowCount := 0, time := s.reading }
          let readmitted (t : State) (health : Nat) : Host.Outcome State Fault Refusal :=
            .next (t.returns .ok (leBytes 1 health ++ zeros 15))
          (p.health = .normal → exec .portReadmit s = readmitted s 0)
          ∧ (p.health = .degraded → exec .portReadmit s = readmitted s 1)
          ∧ (p.health = .fenced → p.enabled = false →
              exec .portReadmit s = readmitted (s.setPort k { p with health := .normal }) 0)
          ∧ (p.health = .fenced → p.enabled = true → exec .portReadmit s =
              readmitted ((q.offerOrDiscard p.settings.frame.noticeLane (.port k) (.port r)).setCause .port) 0))

/-- MAP_ADD: a report port above 7 or outside the port set (so an empty set), a line above 1, or a channel above 255 is
refused, with a result of 0 (log 11). Else, when no port of the set holds the key with another channel or line and none
that lacks it is full: from then on the key hits the entry on every port of the set, at the lowest free index where it
was lacking; every other key on every port is as before, and so is every index an entry stood at; the result carries
the index at the report port and how many ports were new; nothing else changes. Else, with no map changed: CONFLICT
with the lowest-numbered port of the set that holds the key with another channel or line; else MAP_FULL with the
lowest-numbered port that lacks the key and holds 64 entries (R71, R74, R75, R171, R173). The lowest free index is the
lowest at which no entry stands; the index of a key is that of the entry that holds it, which is what a lookup finds
(R71, R72, R75). -/
def Obligations.MapAddInstallsOrRefusesWhole : Prop :=
  (∀ (slot : List Byte) (s : State), s.Holds 0x20 slot →
      let number (offset width : Nat) : Nat := leNat (fieldAt slot offset width)
      let ports : List PortNo := (List.finRange 8).filter fun k => (number 8 1).testBit k
      let refused := 7 < number 9 1 ∨ (number 8 1).testBit (number 9 1) = false ∨ 1 < number 10 1 ∨ 255 < number 12 2
      (refused → exec .mapAdd s = .next (s.returns .badParam (zeros 16)))
      ∧ ∀ (report : PortNo) (ch : ChannelNo), ¬refused → number 9 1 = report → number 12 2 = ch →
          let e : MapEntry :=
            { key := { address := BitVec.ofNat 32 (beNat (fieldAt slot 16 4)), udpPort := BitVec.ofNat 16 (number 14 2) }
              channel := ch, line := if number 10 1 = 0 then .a else .b }
          let conflicts (k : PortNo) : Prop :=
            ∃ held : MapEntry, mapEntry (s.map k) e.key = some held ∧ (held.channel ≠ e.channel ∨ held.line ≠ e.line)
          let full (k : PortNo) : Prop := mapEntry (s.map k) e.key = none ∧ ∀ i : Fin 64, (s.map k)[i] ≠ none
          let bad (o : ReqOutcome) (k : PortNo) : Host.Outcome State Fault Refusal :=
            .next (s.returns o (leBytes 1 0xFF ++ leBytes 1 0 ++ leBytes 1 k ++ zeros 13))
          ((∀ k ∈ ports, ¬conflicts k ∧ ¬full k) →
            ∃ (maps : Vector AddressMap 8) (index : Fin 64),
              let t : State := { s with maps := maps }
              exec .mapAdd s = .next (t.returns .ok (leBytes 1 index
                  ++ leBytes 1 (ports.filter fun k => mapEntry (s.map k) e.key = none).length ++ leBytes 1 0xFF ++ zeros 13))
              ∧ mapIndex (t.map report) e.key = some index
              ∧ ∀ k : PortNo,
                  (∀ key : Key, mapEntry (t.map k) key = if k ∈ ports ∧ key = e.key then some e else mapEntry (s.map k) key)
                  ∧ (k ∈ ports → mapEntry (s.map k) e.key = none → mapIndex (t.map k) e.key = lowestFree (s.map k))
                  ∧ ∀ (i : Fin 64) (held : MapEntry), (s.map k)[i] = some held → (t.map k)[i] = some held)
          ∧ ∀ k ∈ ports,
              (conflicts k → (∀ j ∈ ports, j < k → ¬conflicts j) → exec .mapAdd s = bad .conflict k)
              ∧ ((∀ j ∈ ports, ¬conflicts j) → full k → (∀ j ∈ ports, j < k → ¬full j) → exec .mapAdd s = bad .mapFull k))
  ∧ ∀ m : AddressMap,
      (∀ i : Fin 64, lowestFree m = some i ↔ m[i] = none ∧ ∀ j : Fin 64, j < i → m[j] ≠ none)
      ∧ (lowestFree m = none ↔ ∀ i : Fin 64, m[i] ≠ none)
      ∧ ∀ key : Key,
          let at' (i : Fin 64) : Prop := ∃ e : MapEntry, m[i] = some e ∧ e.key = key
          (∀ i : Fin 64, mapIndex m key = some i ↔ at' i ∧ ∀ j : Fin 64, j < i → ¬at' j)
          ∧ (mapIndex m key = none ↔ ∀ i : Fin 64, ¬at' i)
          ∧ mapEntry m key = (mapIndex m key).bind fun i => m[i]

/-- MAP_REMOVE: an empty port set is refused (log 11); a key that no port of the set holds is NOT_FOUND; otherwise the
key is gone from every port of the set, every other key on every port is as before, and the result carries how many
ports held it; nothing else changes (R71, R76). -/
def Obligations.MapRemoveFreesTheKey : Prop :=
  ∀ (slot : List Byte) (s : State), s.Holds 0x21 slot →
    let ports : List PortNo := (List.finRange 8).filter fun k => (leNat (fieldAt slot 8 1)).testBit k
    let key : Key :=
      { address := BitVec.ofNat 32 (beNat (fieldAt slot 16 4)), udpPort := BitVec.ofNat 16 (leNat (fieldAt slot 14 2)) }
    let held := ports.filter fun k => mapEntry (s.map k) key ≠ none
    (ports = [] → exec .mapRemove s = .next (s.returns .badParam (zeros 16)))
    ∧ (ports ≠ [] → held = [] → exec .mapRemove s = .next (s.returns .notFound (zeros 16)))
    ∧ (held ≠ [] → (∀ k : PortNo, (s.map k).KeysOnce) → ∃ maps : Vector AddressMap 8,
        let t : State := { s with maps := maps }
        exec .mapRemove s = .next (t.returns .ok (leBytes 1 held.length ++ zeros 15))
        ∧ ∀ (k : PortNo) (other : Key), mapEntry (t.map k) other =
            if k ∈ ports ∧ other = key then none else mapEntry (s.map k) other)

/-- PATTERN_LOAD: no bytes, more than 32, or bytes past offset 255 are refused, with a result of 0 (log 11); otherwise
the bytes replace those from the offset on and no other, and the result carries offset and number; nothing else
changes (R77). -/
def Obligations.PatternLoadReplacesBytes : Prop :=
  ∀ (slot : List Byte) (s : State), s.Holds 0x22 slot → slot.length = 64 →
    let offset := leNat (fieldAt slot 8 2)
    let n := leNat (fieldAt slot 10 1)
    let refused := n = 0 ∨ 32 < n ∨ 256 < offset + n
    (refused → exec .patternLoad s = .next (s.returns .badParam (zeros 16)))
    ∧ (¬refused → ∃ pool : Vector Byte 256,
        let t : State := { s with patterns := pool }
        exec .patternLoad s = .next (t.returns .ok (leBytes 2 offset ++ leBytes 1 n ++ zeros 13))
        ∧ ∀ i : Fin 256, some pool[i] =
            if offset ≤ i ∧ (i : Nat) < offset + n then slot[16 + (i - offset)]? else some s.patterns[i])

/-- CHANNEL_SET, in its stages: a channel number above 255 is refused, an ON channel is BUSY, and a structural parameter
out of range is refused: a mode, reject policy or byte order that is none of its two values, a lane above 3, a sequence
width that is neither 4 nor 8, a count width above 2, an offset above 1,023, a marker beyond 8 bytes or past the pool's
end; of an absent count (width 0) neither order nor offset is looked at; each with a result of 0 where there are no
settings to report (log 11). Otherwise the settings are taken with the tunable ones brought into range, and the result
carries those five; nothing else changes (R83, R84, R171, R173). -/
def Obligations.ChannelSetTakesItsSettings : Prop :=
  ∀ (slot : List Byte) (s : State), s.Holds 0x23 slot →
    let number (offset width : Nat) : Nat := leNat (fieldAt slot offset width)
    let order (code : Nat) : ByteOrder := if code = 0 then .big else .little
    let refused := 1 < number 10 1 ∨ 3 < number 11 1 ∨ 1 < number 12 1
      ∨ (number 13 1 ≠ 4 ∧ number 13 1 ≠ 8) ∨ 1 < number 14 1 ∨ 1023 < number 20 2
      ∨ (number 15 1 ≠ 0 ∧ (2 < number 15 1 ∨ 1 < number 16 1 ∨ 1023 < number 22 2))
      ∨ 8 < number 17 1 ∨ 1023 < number 24 2 ∨ 256 < number 18 1 + number 17 1
    (256 ≤ number 8 2 → exec .channelSet s = .next (s.returns .badParam (zeros 16)))
    ∧ ∀ ch : ChannelNo, number 8 2 = ch →
        let x := s.channel ch
        (x.on = true → exec .channelSet s = .next (s.returns .busy (zeros 16)))
        ∧ (x.on = false → refused → exec .channelSet s = .next (s.returns .badParam (zeros 16)))
        ∧ ∀ lane : LaneNo, x.on = false → ¬refused → number 11 1 = lane →
            let g : ChannelSettings :=
              { mode := if number 10 1 = 0 then .paired else .single, lane := lane, snap := number 26 2
                sequence := { offset := number 20 2, width := number 13 1, order := order (number 14 1) }
                msgCount :=
                  if number 15 1 = 0 then none
                  else some { offset := number 22 2, width := number 15 1, order := order (number 16 1) }
                marker := { index := number 18 1, length := number 17 1, offset := number 24 2 }
                partnerWindow := number 28 2, gapWindow := number 30 2, resyncLimit := number 32 8
                entryCap := number 40 2, reject := if number 12 1 = 0 then .drop else .capture }
            let a : ChannelSettings :=
              { g with snap := min 1536 ((g.snap + 7) / 8 * 8), partnerWindow := max 1 g.partnerWindow
                       gapWindow := max 1 g.gapWindow
                       resyncLimit := max 1 (min (2 ^ (8 * g.sequence.width) / 2 - 1) g.resyncLimit)
                       entryCap := max 1 (min 4096 g.entryCap) }
            exec .channelSet s = .next ((s.setChannel ch { x with settings := a }).returns
              (if a = g then .ok else .adjusted)
              (leBytes 2 a.snap ++ leBytes 2 a.partnerWindow ++ leBytes 2 a.gapWindow ++ leBytes 2 a.entryCap
                ++ leBytes 8 a.resyncLimit))

/-- CHANNEL_START: no such channel is refused, an ON channel is BUSY, with a result of 0 (log 11); an OFF channel
becomes ON with a run number larger by 1 and NextSeq unset, and the result carries the run number; nothing else changes
(R85). CHANNEL_STOP: no such channel is refused (log 11), and an OFF channel is left as it is with 0 flushed; an ON
channel becomes OFF with NextSeq unset, its entries leave in the order of R91 as records flagged FLUSHED on its lane,
each AWAIT entry counted as a line miss and each GAP entry as a gap, and the result carries how many; entries, channels
and counters of other channels stay (R86, R125, R127). -/
def Obligations.ChannelStartsAndStops : Prop :=
  (∀ (slot : List Byte) (s : State), s.Holds 0x24 slot →
      let n := leNat (fieldAt slot 8 2)
      (256 ≤ n → exec .channelStart s = .next (s.returns .badParam (zeros 16)))
      ∧ ∀ ch : ChannelNo, n = ch →
          let x := s.channel ch
          (x.on = true → exec .channelStart s = .next (s.returns .busy (zeros 16)))
          ∧ (x.on = false → exec .channelStart s = .next
              ((s.setChannel ch { x with on := true, run := x.run + 1, nextSeq := none }).returns .ok
                (leBytes 4 (x.run + 1).toNat ++ zeros 12))))
  ∧ (∀ (slot : List Byte) (s : State), s.Holds 0x25 slot →
      let n := leNat (fieldAt slot 8 2)
      (256 ≤ n → exec .channelStop s = .next (s.returns .badParam (zeros 16)))
      ∧ ∀ ch : ChannelNo, n = ch →
          let x := s.channel ch
          let flushed := s.collection ch
          let awaits (e : Entry) : Bool :=
            match e.kind with
            | .await _ => true
            | .gap _ => false
          (x.on = false → exec .channelStop s = .next (s.returns .ok (zeros 16)))
          ∧ (x.on = true → ∃ counters : Counters,
              let t := (s.setChannel ch { x with on := false, nextSeq := none })
              let u : State :=
                { t with
                  entries := s.entries.filter fun e => e.channel ≠ ch
                  offers := s.offers ++ flushed.map fun e =>
                    { lane := x.settings.lane, source := .table ch none, record := e.leaving x.settings s.count .flushed }
                  counters := counters }
              exec .channelStop s = .next (u.returns .ok (leBytes 2 flushed.length ++ zeros 14))
              ∧ counters.get (.expiry ch .lineMisses) =
                s.counters.get (.expiry ch .lineMisses) + BitVec.ofNat 64 (flushed.countP awaits)
              ∧ counters.get (.expiry ch .gaps) =
                s.counters.get (.expiry ch .gaps) + BitVec.ofNat 64 (flushed.countP fun e => !awaits e)
              ∧ ∀ c : Counter, c ≠ .expiry ch .lineMisses → c ≠ .expiry ch .gaps → counters.get c = s.counters.get c))

/-! ### The Staging Buffer -/

/-- PARTITION_SET: BUSY unless every lane is CLOSED; refused when an allotment is below 26 or the four exceed 4,096,
with a result of 0 (log 11); else every lane takes its allotment and its cap, limited to the pool that the allotments
leave, with ADJUSTED when a limit cut one; the result carries the caps and the pool; nothing else changes (R130). -/
def Obligations.PartitionSetDividesTheBuffer : Prop :=
  ∀ (slot : List Byte) (s : State), s.Holds 0x32 slot →
    let allotment (l : LaneNo) : Nat := leNat (fieldAt slot (8 + 2 * l) 2)
    let given (l : LaneNo) : Nat := leNat (fieldAt slot (16 + 2 * l) 2)
    let total := allotment 0 + allotment 1 + allotment 2 + allotment 3
    let pool := 4096 - total
    let cap (l : LaneNo) : Nat := min pool (given l)
    let busy := ∃ l : LaneNo, (s.lane l).state ≠ .closed
    let refused := (∃ l : LaneNo, allotment l < 26) ∨ 4096 < total
    (busy → exec .partitionSet s = .next (s.returns .busy (zeros 16)))
    ∧ (¬busy → refused → exec .partitionSet s = .next (s.returns .badParam (zeros 16)))
    ∧ (¬busy → ¬refused → ∃ staging : Vector StagingLane 4,
        let t : State := { s with staging := staging }
        (∀ l : LaneNo, t.stage l = { s.stage l with allotment := allotment l, cap := cap l })
        ∧ exec .partitionSet s = .next (t.returns (if ∀ l : LaneNo, cap l = given l then .ok else .adjusted)
            (leBytes 2 (cap 0) ++ leBytes 2 (cap 1) ++ leBytes 2 (cap 2) ++ leBytes 2 (cap 3) ++ leBytes 2 pool
              ++ zeros 6)))

/-- An offer whose turn it can be (log 10) is taken by the state of its lane: CLOSED or CLOSING discards it and counts
it for the block that offered; HALTED drops it into the tally; OPEN and STARVED drop it when its need is not met from
allotment, cap and free pool, and else admit it to the end of the FIFO, behind a DROPPED record when the tally is not
empty. A page may then be sought; nothing else changes. Any other offer stays, and a position with no offer gives
nothing (log 2) (R131 to R134, R146). Every record offered to an OPEN, STARVED or HALTED lane is accounted for: what
the lane owes (records in the FIFO, records that staged DROPPED records report, and the tally) grows by exactly 1 when
its offer is taken (R135). Whose turn it is: no offer is taken before an earlier one of the same port or the same
discipline, of the same port's foreign frames, of the same channel, of the same frame on that frame's lane, or before
an earlier STEP record on its lane when it is another STEP record or the GAP or LINE_MISS record of an entry of an
older epoch or, when it is the TIME record of a stepping edge, before an earlier STEP record of a discipline step (R15,
R28, R47, R68, R110, R126; log 10, log 35). With no such offer before it, an offer is ready: any other two may be taken
in either order (R131, log 10). A record takes a block for every 64 bytes begun; ARRIVAL, PARTNER, GAP and LINE_MISS
records and the TIME records of edges carry a time of their own (R129, R133). The free pool is what the allotments
leave of 4,096 blocks, less what the four lanes hold beyond theirs (R129). -/
def Obligations.OfferIsTakenInTurnAndAccountedFor : Prop :=
  (∀ (i : Nat) (s : State),
      ((∀ o : Offer, s.offers[i]? = some o → s.offerReady i o = false) → exec (.offerRecord i) s = .next s)
      ∧ ∀ o : Offer, s.offers[i]? = some o → s.offerReady i o = true →
          let l := o.lane
          let r := o.record
          let g := s.stage l
          let u : State := { s with offers := s.offers.eraseIdx i }
          let holding := (g.fifo.map Record.blocks).sum
          let need := r.blocks + (if g.tally.dropped = 0 then 0 else 1)
          let shared := holding + need - g.allotment
          let met := shared ≤ g.cap ∧ shared - (holding - g.allotment) ≤ s.freePool
          let at' : DropTime :=
            if r.ownTime then { sec := r.dated.time.sec, ns := r.dated.time.ns, epoch := r.dated.epoch }
            else { sec := s.timebase.sec, ns := s.timebase.sub / 4294967296, epoch := s.timebase.epoch }
          let dropped :=
            (u.setStage l
              { g with
                tally := { dropped := g.tally.dropped + 1
                           arrivals := g.tally.arrivals + (if r.isArrival then 1 else 0)
                           first := some (g.tally.first.getD at'), last := some at' }
                dropTotal := g.dropTotal + 1 }).bump (.lane l .recordsDropped)
          let takes := (s.lane l).state = .opened ∨ (s.lane l).state = .starved
          ((s.lane l).state = .closed ∨ (s.lane l).state = .closing →
              exec (.offerRecord i) s = .next (seekPage l (u.bump o.source.noLane)))
          ∧ ((s.lane l).state = .halted → exec (.offerRecord i) s = .next dropped)
          ∧ (takes → ¬met → exec (.offerRecord i) s = .next (seekPage l dropped))
          ∧ (takes → met → g.tally.dropped = 0 →
              exec (.offerRecord i) s = .next (seekPage l (u.setStage l { g with fifo := g.fifo ++ [r] })))
          ∧ (∀ first last : DropTime, takes → met → g.tally.dropped ≠ 0 → g.tally.first = some first →
              g.tally.last = some last →
              let report : DroppedRecord :=
                { dropped := min g.tally.dropped 4294967295, arrivals := min g.tally.arrivals 4294967295, first := first
                  last := last, time := s.reading }
              let rest : Tally :=
                if g.tally.dropped ≤ 4294967295 ∧ g.tally.arrivals ≤ 4294967295 then
                  { dropped := 0, arrivals := 0, first := none, last := none }
                else
                  { dropped := g.tally.dropped - report.dropped, arrivals := g.tally.arrivals - report.arrivals
                    first := some last, last := some last }
              exec (.offerRecord i) s = .next
                (seekPage l (u.setStage l { g with fifo := g.fifo ++ [.dropped report, r], tally := rest }))))
  ∧ (∀ (i : Nat) (o : Offer) (s : State), s.offers[i]? = some o → s.offerReady i o = true → o.record.isDropped = false →
      (s.lane o.lane).state ≠ .closed → (s.lane o.lane).state ≠ .closing → (s.stage o.lane).tally.Coherent →
      ∃ t : State, exec (.offerRecord i) s = .next t ∧ (t.stage o.lane).owed = (s.stage o.lane).owed + 1
        ∧ ∀ l : LaneNo, l ≠ o.lane → t.stage l = s.stage l)
  ∧ (∀ (i : Nat) (o : Offer) (s : State), s.offerReady i o = true ↔ ∀ a ∈ s.offers.take i,
      (∀ k : PortNo, a.source = .port k → o.source ≠ .port k)
      ∧ (∀ (k : PortNo) (c d : ChannelNo), a.source = .classifier k c → o.source ≠ .classifier k d)
      ∧ (∀ (c : ChannelNo) (x y : Option FrameTag), a.source = .table c x → o.source ≠ .table c y)
      ∧ (∀ (c d : ChannelNo) (x : FrameTag), a.source = .table c (some x) → a.lane = x.lane →
          o.source = .table d (some x) → o.lane ≠ x.lane)
      ∧ (a.source = .discipline → o.source ≠ .discipline)
      ∧ (a.source = .timebase → o.source = .timebase → a.lane ≠ o.lane)
      ∧ (∀ (c : ChannelNo) (x : Option FrameTag), a.source = .timebase → o.source = .table c x → a.lane = o.lane →
          ((∃ r, o.record = .gap r) ∨ ∃ r, o.record = .lineMiss r) →
          let later := (a.record.dated.epoch - o.record.dated.epoch).toNat
          later = 0 ∨ 32768 ≤ later)
      ∧ (∀ (x : StepRecord) (y : TimeRecord), a.source = .timebase → o.source = .discipline →
          a.record = .step x → o.record = .time y → x.cause = .discipline → y.stepped = false))
  ∧ (∀ r : Record, r.blocks = (r.length + 63) / 64
      ∧ (r.isArrival = true ↔ ∃ x, r = .arrival x) ∧ (r.isDropped = true ↔ ∃ x, r = .dropped x)
      ∧ (r.ownTime = true ↔ (∃ x, r = .arrival x) ∨ (∃ x, r = .partner x) ∨ (∃ x, r = .gap x) ∨ (∃ x, r = .lineMiss x)
        ∨ ∃ x, r = .time x ∧ x.event = .edge))
  ∧ ∀ s : State,
      let held (l : LaneNo) : Nat := ((s.stage l).fifo.map Record.blocks).sum - (s.stage l).allotment
      s.freePool =
        4096 - ((s.stage 0).allotment + (s.stage 1).allotment + (s.stage 2).allotment + (s.stage 3).allotment)
          - (held 0 + held 1 + held 2 + held 3)

/-! ### The Lane Writers -/

/-- A page is sought: an OPEN or CLOSING lane with a record in its FIFO, no current page and no owner-word read
outstanding issues the read of the owner word of the page at its next page index, in the NORMAL state of the bus; the
re-read timer stops. In any other case nothing happens (R138, R162). An owner word of FREE: its page becomes the
current page, a STARVED lane becomes OPEN, and the head record is written into it. Any other word: OPEN becomes
STARVED, counted, and STARVED stays, with the re-read 8,000 cycles after the read was issued; CLOSING ends with loss. A
read that its lane no longer wants changes nothing of the lane, but for a page sought anew. The read is no longer
outstanding (a completion within the limit: log 12) (R138, R139, R145). That no page is sought while an owner-word read
that the lane no longer wants is outstanding is the model's choice (log 32), and so is that such a read's completion
may set the slow-read flag (log 15). A completion more than 400,000 cycles after the issue sets that flag (R160); reads
carry the model's own numbers (log 5). A completion more than 4,000,000 cycles after the issue is discarded (R161), and
one of a read that is not outstanding, or not for an owner word, is nothing (log 2). -/
def Obligations.PageIsTakenByItsOwnerWord : Prop :=
  (∀ (l : LaneNo) (address : Address) (s : State), (s.lane l).pages[(s.lane l).nextPage]? = some address →
      s.bus.faulted = false →
      let w := s.lane l
      let b := s.bus
      let seeks := (w.state = .opened ∨ w.state = .closing) ∧ (s.stage l).fifo ≠ [] ∧ w.current = none
        ∧ ∀ r ∈ b.reads, r.purpose ≠ .ownerWord l
      let r : ReadOp :=
        { tag := b.nextTag, purpose := .ownerWord l, address := address, length := 4, issued := s.count, wanted := true }
      let bus : BusInterface :=
        { b with reads := b.reads ++ [r], nextTag := b.nextTag + 1, log := b.log ++ [.read b.nextTag address 4] }
      (seeks → seekPage l s = { s.setLane l { w with rereadAt := none } with bus := bus })
      ∧ (¬seeks → seekPage l s = s))
  ∧ (∀ (tag : Nat) (word : BitVec 32) (r : ReadOp) (l : LaneNo) (s : State),
      s.readOp tag = some r → r.purpose = .ownerWord l → (s.count - r.issued).toNat ≤ 4000000 →
      let w := s.lane l
      let u := (s.dropRead r.tag).noteAge r
      let retry : Option Count := some (r.issued + 8000)
      let page : CurrentPage := { address := r.address, used := 32, records := 0, firstSerial := w.serial }
      let state := if w.state = .starved then .opened else w.state
      (r.wanted = false → exec (.ownerWordReadDone tag word) s = .next (seekPage l u))
      ∧ (r.wanted = true → word = 1 → exec (.ownerWordReadDone tag word) s = .next
          (writeHead l (u.setLane l { w with state := state, rereadAt := none, current := some page })))
      ∧ (r.wanted = true → word ≠ 1 → w.state = .opened → exec (.ownerWordReadDone tag word) s = .next
          ((u.setLane l { w with state := .starved, rereadAt := retry }).bump (.lane l .starvations)))
      ∧ (r.wanted = true → word ≠ 1 → w.state = .starved →
          exec (.ownerWordReadDone tag word) s = .next (u.setLane l { w with rereadAt := retry }))
      ∧ (r.wanted = true → word ≠ 1 → w.state = .closing →
          exec (.ownerWordReadDone tag word) s = .next (closeWithLoss l (u.bump (.lane l .starvations)))))
  ∧ (∀ (tag : Nat) (word : BitVec 32) (s : State),
      (∀ r : ReadOp, s.readOp tag = some r →
        4000000 < (s.count - r.issued).toNat ∨ ∀ l : LaneNo, r.purpose ≠ .ownerWord l) →
      exec (.ownerWordReadDone tag word) s = .next s)
  ∧ ∀ (tag : Nat) (r : ReadOp) (which : ReadPurpose → Bool) (s : State),
      let b := s.bus
      s.readOp tag = b.reads.find? (fun x => decide (x.tag = tag))
      ∧ s.dropRead tag = { s with bus := { b with reads := b.reads.filter fun x => decide (x.tag ≠ tag) } }
      ∧ s.noteAge r = { s with bus := { b with slowRead := b.slowRead || decide (400000 < (s.count - r.issued).toNat) } }
      ∧ s.disownReads which =
        { s with bus := { b with reads := b.reads.map fun x => if which x.purpose then { x with wanted := false } else x } }

/-- The head record of an OPEN or CLOSING lane with a current page: when it fits, its bytes with the lane serial are
written at the used length, which grows by its length, as do the record count and the serial by 1; it leaves the FIFO,
the linger timer restarts, and it is counted. When it does not fit, the page is closed with FULL and a page sought
instead. Otherwise nothing happens (log 2) (R140, R141). A page just taken has its first record written so. A CLOSING
lane counts what it writes for the result of its LANE_CLOSE, DROPPED records included (log 28). -/
def Obligations.HeadRecordIsWrittenOrClosesThePage : Prop :=
  ∀ (l : LaneNo) (s : State),
    let w := s.lane l
    let g := s.stage l
    let writes := w.state = .opened ∨ w.state = .closing
    (¬writes ∨ w.current = none ∨ g.fifo = [] → exec (.writeRecord l) s = .next s)
    ∧ ∀ (p : CurrentPage) (r : Record) (rest : List Record), writes → w.current = some p → g.fifo = r :: rest →
        let after : Lane :=
          { w with current := some { p with used := p.used + r.length, records := p.records + 1 }, serial := w.serial + 1
                   lingerAt := some (s.count + BitVec.ofNat 64 (w.linger * 400))
                   closeWritten := if w.state = .closing then w.closeWritten + 1 else w.closeWritten }
        let written := s.writeAt (p.address + BitVec.ofNat 64 p.used) (r.encode w.serial)
        let counter : LaneCounter := if r.isDropped then .droppedWritten else .written
        (p.used + r.length ≤ 2 ^ w.exponent → exec (.writeRecord l) s = .next
          (((written.setLane l after).setStage l { g with fifo := rest }).bump (.lane l counter)))
        ∧ (2 ^ w.exponent < p.used + r.length → exec (.writeRecord l) s = .next (seekPage l (closePage l .full s)))
        ∧ writeHead l s = ((written.setLane l after).setStage l { g with fifo := rest }).bump (.lane l counter)

/-- A page close, for reason FULL (code 1), LINGER (2) or FLUSH (3), writes bytes 4 to 31 of the header and then READY;
the page serial and the closed pages gain 1, the next page index moves on around the table, no page is current and the
linger timer stops; the reason is counted and the closed-page count goes to the Status Block. Then either the pending
closes reach the batch, or the holdoff is 0, and CAUSE of the lane is set with none pending and the holdoff timer
stopped; or one more is pending and the holdoff timer restarts (R142, R143, R170, R174). All writes of the close stand
in one step with nothing between them (log 41), and the closed-page count is written only while there is a Control Area
(log 26): the model's choices. With no current page nothing is closed (R144). -/
def Obligations.PageCloseWritesHeaderAndNotifies : Prop :=
  (∀ (l : LaneNo) (reason : CloseReason) (p : CurrentPage) (s : State), (s.lane l).current = some p →
      let w := s.lane l
      let b := s.timebase
      let code : Nat :=
        match reason with
        | .full => 1
        | .linger => 2
        | .flush => 3
      let counter : LaneCounter :=
        match reason with
        | .full => .fullCloses
        | .linger => .lingerCloses
        | .flush => .flushCloses
      let header := leBytes 4 w.pageSerial.toNat ++ leBytes 4 p.firstSerial.toNat ++ leBytes 2 p.records
        ++ leBytes 1 code ++ leBytes 1 l ++ leBytes 4 p.used ++ leBytes 2 b.epoch.toNat ++ zeros 2
        ++ leBytes 4 b.sec.toNat ++ leBytes 4 (b.sub / 4294967296)
      let after : Lane :=
        { w with pageSerial := w.pageSerial + 1, nextPage := (w.nextPage + 1) % w.pages.length
                 closedPages := w.closedPages + 1, current := none, lingerAt := none }
      let closed := (((s.writeAt (p.address + 4) header).writeAt p.address [2, 0, 0, 0]).bump
        (.lane l counter)).writeArea (0x484 + 16 * l) (leBytes 4 (w.closedPages + 1).toNat)
      let announces := w.batch ≤ w.pendingCloses + 1 ∨ w.holdoff = 0
      let later : Option Count := some (s.count + BitVec.ofNat 64 (w.holdoff * 400))
      (announces → closePage l reason s =
          (closed.setLane l { after with pendingCloses := 0, holdoffAt := none }).setCause (.lane l))
        ∧ (¬announces → closePage l reason s =
          closed.setLane l { after with pendingCloses := w.pendingCloses + 1, holdoffAt := later }))
  ∧ ∀ (l : LaneNo) (reason : CloseReason) (s : State), (s.lane l).current = none → closePage l reason s = s

/-- The linger timer closes the page with LINGER and a page is sought; the holdoff timer stops, no close is pending
any more, and CAUSE of the lane is set when one was; the re-read timer, of a STARVED lane with no owner-word read
outstanding, reads the owner word of the page at the next page index again. Each happens only when its timer runs and
the count has reached its end, by the test modulo 2^64 that the model takes for every timer (log 40); else nothing
happens (log 2), and nothing either where an owner-word read of the STARVED lane is already outstanding (log 32) (R139,
R141, R143). -/
def Obligations.LaneTimersExpire : Prop :=
  ∀ (l : LaneNo) (s : State),
    let w := s.lane l
    let due (timer : Option Count) : Prop := ∃ at' : Count, timer = some at' ∧ (s.count - at').toNat < 2 ^ 63
    let quiet := s.setLane l { w with pendingCloses := 0, holdoffAt := none }
    (due w.lingerAt → exec (.lingerExpiry l) s = .next (seekPage l (closePage l .linger s)))
    ∧ (¬due w.lingerAt → exec (.lingerExpiry l) s = .next s)
    ∧ (due w.holdoffAt → exec (.holdoffExpiry l) s = .next
        (if w.pendingCloses = 0 then quiet else quiet.setCause (.lane l)))
    ∧ (¬due w.holdoffAt → exec (.holdoffExpiry l) s = .next s)
    ∧ (∀ address : Address, due w.rereadAt → w.state = .starved → (∀ r ∈ s.bus.reads, r.purpose ≠ .ownerWord l) →
        w.pages[w.nextPage]? = some address → exec (.starvedReread l) s = .next
          ((s.setLane l { w with rereadAt := none }).issueRead (.ownerWord l) address 4))
    ∧ (¬due w.rereadAt ∨ w.state ≠ .starved ∨ (∃ r ∈ s.bus.reads, r.purpose = .ownerWord l) →
        exec (.starvedReread l) s = .next s)

/-- LANE_OPEN: a lane above 3 is refused, a lane that is not CLOSED is BUSY, and a page count that is not 2 to 1,024,
an exponent that is not 12 to 20 or a list address that is not a multiple of 8 is refused; otherwise the read of the
page list, 8 bytes a page, is issued and the opening is kept. When it has been read, with every address, little-endian,
a multiple of 4 KiB, the lane is OPEN with those pages and its parameters in range, its serials, counts and indices 0
and its tally and drop total cleared; else it is refused (R137, R171, R173). That the list is one read is the model's
choice (log 24), and so are a completion at exactly the read's limit that still counts (log 12) and a refused request's
result of 0 (log 11). A completion more than 4,000,000 cycles after the issue is discarded (R161), and one of a read
that is not outstanding, or not for a list that a lane waits for, or of another length, is nothing (log 2). -/
def Obligations.LaneOpensWithItsPageList : Prop :=
  (∀ (slot : List Byte) (s : State),
      let number (offset width : Nat) : Nat := leNat (fieldAt slot offset width)
      let refused := number 10 2 < 2 ∨ 1024 < number 10 2 ∨ number 9 1 < 12 ∨ 20 < number 9 1 ∨ number 24 8 % 8 ≠ 0
      (s.Holds 0x30 slot → 4 ≤ number 8 1 → exec .laneOpen s = .next (s.returns .badParam (zeros 16)))
      ∧ ∀ l : LaneNo,
          let w := s.lane l
          (s.Holds 0x30 slot → number 8 1 = l → w.state ≠ .closed →
            exec .laneOpen s = .next (s.returns .busy (zeros 16)))
          ∧ (s.Holds 0x30 slot → number 8 1 = l → w.state = .closed → refused →
              exec .laneOpen s = .next (s.returns .badParam (zeros 16)))
          ∧ (s.Holds 0x30 slot → number 8 1 = l → w.state = .closed → ¬refused → s.bus.faulted = false →
              let opening : Opening :=
                { count := number 10 2, exponent := number 9 1, linger := number 12 2, holdoff := number 14 2
                  batch := number 16 2 }
              exec .laneOpen s = .next ((s.begun.setLane l { w with opening := some opening }).issueRead (.pageList l)
                (BitVec.ofNat 64 (number 24 8)) (8 * number 10 2)))
          ∧ ∀ (tag : Nat) (r : ReadOp) (o : Opening) (bytes : List Byte), s.readOp tag = some r →
              r.purpose = .pageList l → w.opening = some o → (s.count - r.issued).toNat ≤ 4000000 →
              bytes.length = 8 * o.count → s.engine.state = .busy → s.engine.handed = none →
              let u := (s.dropRead tag).noteAge r
              let pages : List Address := (List.range o.count).map fun i => BitVec.ofNat 64 (leNat (fieldAt bytes (8 * i) 8))
              let linger := max 1 o.linger
              let batch := max 1 (min 255 o.batch)
              let opened : Lane :=
                { w with state := .opened, pages := pages, exponent := o.exponent, nextPage := 0, current := none
                         serial := 0, pageSerial := 0, closedPages := 0, linger := linger, holdoff := o.holdoff
                         batch := batch, pendingCloses := 0, opening := none }
              let stage := { s.stage l with tally := { dropped := 0, arrivals := 0, first := none, last := none }, dropTotal := 0 }
              ((∃ a ∈ pages, a.toNat % 4096 ≠ 0) → exec (.pageListReadDone tag bytes) s = .next
                ((u.setLane l { w with opening := none }).returns .badParam (zeros 16)))
              ∧ ((∀ a ∈ pages, a.toNat % 4096 = 0) → exec (.pageListReadDone tag bytes) s = .next
                (((u.setLane l opened).setStage l stage).returns
                  (if linger = o.linger ∧ batch = o.batch then .ok else .adjusted)
                  (leBytes 2 linger ++ leBytes 2 o.holdoff ++ leBytes 2 batch ++ zeros 10))))
  ∧ ∀ (tag : Nat) (bytes : List Byte) (s : State),
      (∀ r : ReadOp, s.readOp tag = some r →
        4000000 < (s.count - r.issued).toNat
        ∨ ∀ (l : LaneNo) (o : Opening), r.purpose = .pageList l → (s.lane l).opening = some o →
            bytes.length ≠ 8 * o.count) →
      exec (.pageListReadDone tag bytes) s = .next s

/-- LANE_CLOSE: no such lane or switch is refused; a CLOSED lane is OK at once; an OPEN lane begins to drain, or closes
with loss when discarding, as a STARVED one always does: its FIFO and tally are emptied, the records lost are counted,
and the close ends, as it does too when the drain of a CLOSING lane finds its page not FREE; of a HALTED lane, or one
CLOSING already, nothing follows (the model's choice, log 29). A CLOSING lane whose FIFO and tally are empty ends its
close; with a tally, a DROPPED record that reports what it can is staged and written first, and the close ends when
that leaves nothing. The end closes a current page with FLUSH, announces pending closes, stops the timers, leaves the
lane CLOSED and returns its counts (DROPPED records among those written, log 28). The result of a refusal and of a
CLOSED lane is 0 (log 11). CLOSE_DRAIN_END in another state is nothing (log 2) (R134, R144, R145). -/
def Obligations.LaneClosesByDrainOrLoss : Prop :=
  ∀ (slot : List Byte) (s : State),
    let n := leNat (fieldAt slot 8 1)
    let discard := leNat (fieldAt slot 9 1)
    let ends (l : LaneNo) (o : ReqOutcome) (lost : Nat) (u : State) : Host.Outcome State Fault Refusal :=
      let flushed := closePage l .flush u
      let t := if 0 < (flushed.lane l).pendingCloses then flushed.setCause (.lane l) else flushed
      let closed :=
        t.setLane l { t.lane l with state := .closed, pendingCloses := 0, holdoffAt := none, lingerAt := none }
      let w := closed.lane l
      .next (closed.returns o
        (leBytes 2 w.closeWritten ++ leBytes 2 lost ++ leBytes 4 w.closedPages.toNat ++ leBytes 4 w.serial.toNat
          ++ leBytes 4 (closed.stage l).dropTotal.toNat))
    (s.Holds 0x31 slot → 4 ≤ n ∨ 1 < discard → exec .laneClose s = .next (s.returns .badParam (zeros 16)))
    ∧ ∀ l : LaneNo,
        let w := s.lane l
        let g := s.stage l
        let lost := (g.fifo.filter fun r => r.isDropped = false).length
        let begun := s.begun.setLane l { w with closeWritten := 0 }
        let emptied :=
          (begun.setStage l { g with fifo := [], tally := .empty, dropTotal := g.dropTotal + BitVec.ofNat 32 lost }).bumpBy
            (.lane l .closeDiscards) lost
        let u := emptied.disownReads fun p => p = .ownerWord l
        (s.Holds 0x31 slot → n = l → discard ≤ 1 → w.state = .closed →
            exec .laneClose s = .next (s.returns .ok (zeros 16)))
        ∧ (s.Holds 0x31 slot → n = l → discard ≤ 1 → w.state = .halted ∨ w.state = .closing →
            exec .laneClose s = .next s.begun)
        ∧ (s.Holds 0x31 slot → n = l → discard = 0 → w.state = .opened →
            exec .laneClose s = .next (s.begun.setLane l { w with state := .closing, closeWritten := 0 }))
        ∧ (s.Holds 0x31 slot → n = l → discard ≤ 1 → (w.state = .starved ∨ w.state = .opened ∧ discard = 1) →
            exec .laneClose s = ends l .loss lost (u.setLane l { w with closeWritten := 0, rereadAt := none }))
        ∧ (s.engine.state = .busy → s.engine.handed = none → w.state = .closing → g.fifo = [] → g.tally.dropped = 0 →
            exec (.closeDrainEnd l) s = ends l .ok 0 s)
        ∧ (s.engine.state = .busy → s.engine.handed = none →
            let shed :=
              (s.setStage l { g with fifo := [], tally := .empty, dropTotal := g.dropTotal + BitVec.ofNat 32 lost }).bumpBy
                (.lane l .closeDiscards) lost
            .next (closeWithLoss l s) =
              ends l .loss lost ((shed.disownReads fun p => p = .ownerWord l).setLane l { w with rereadAt := none }))
        ∧ (w.state ≠ .closing ∨ g.fifo ≠ [] → exec (.closeDrainEnd l) s = .next s)
        ∧ ∀ first last : DropTime, w.state = .closing → g.fifo = [] → 0 < g.tally.dropped →
            g.tally.first = some first → g.tally.last = some last →
            let report : DroppedRecord :=
              { dropped := min g.tally.dropped 4294967295, arrivals := min g.tally.arrivals 4294967295, first := first
                last := last, time := s.reading }
            let whole := g.tally.dropped ≤ 4294967295 ∧ g.tally.arrivals ≤ 4294967295
            let rest : Tally :=
              if whole then { dropped := 0, arrivals := 0, first := none, last := none }
              else
                { dropped := g.tally.dropped - report.dropped, arrivals := g.tally.arrivals - report.arrivals
                  first := some last, last := some last }
            let staged := s.setStage l { g with fifo := [.dropped report], tally := rest }
            (w.current = none → exec (.closeDrainEnd l) s = .next (seekPage l staged))
            ∧ ∀ p : CurrentPage, w.current = some p →
                (p.used + 48 ≤ 2 ^ w.exponent → rest.dropped = 0 → s.engine.state = .busy → s.engine.handed = none →
                  exec (.closeDrainEnd l) s = ends l .ok 0 (writeHead l staged))
                ∧ (p.used + 48 ≤ 2 ^ w.exponent → rest.dropped ≠ 0 →
                  exec (.closeDrainEnd l) s = .next (writeHead l staged))
                ∧ (2 ^ w.exponent < p.used + 48 →
                  exec (.closeDrainEnd l) s = .next (seekPage l (closePage l .full staged)))

/-! ### The Request Engine -/

/-- The engine BUSY with a copy, the bus NORMAL: with the owner's answer, or at once with BAD_REQUEST and a result of 0
when the copy's code is none of the table's, the request completes: three writes to the slot (bytes 1 to 63 but for the
outcome, with the result; the outcome; DONE), then CAUSE REQUEST, IDLE, and a scan at once. Without an answer, or with
a code of the table, or while not BUSY, nothing happens (log 2); the first write is two runs of bytes (log 27), the
three stand in one step with nothing between them (log 41), and the engine's record of how its last request ended is
the model's own (log 7) (R157). A request command is carried out only when a slot with its own code has been handed to
its owner: with none handed, or one of another code, nothing happens (R157, log 2); carried out when the engine no
longer is BUSY it leaves the engine's state and answer alone (R162, log 30). The outcomes that are written have the
codes 1 to 9, and a slot's code is its byte 1 (R158, R171). -/
def Obligations.RequestCompletesInThreeWrites : Prop :=
  (∀ s : State,
      (s.engine.state ≠ .busy → exec .requestComplete s = .next s ∧ exec .badRequest s = .next s)
      ∧ ∀ slot : List Byte, s.engine.state = .busy → s.engine.copy = some slot → s.bus.faulted = false →
          let base := s.bus.areaBase + BitVec.ofNat 64 (64 * s.engine.lastSlot)
          let completed (o : ReqOutcome) (result : List Byte) : State :=
            let body : BusEvent := .write [{ address := base + 1, bytes := fieldAt slot 1 1 },
                                           { address := base + 3, bytes := fieldAt slot 3 45 ++ result }]
            let outcome : BusEvent := .write [{ address := base + 2, bytes := [BitVec.ofNat 8 o.code] }]
            let done : BusEvent := .write [{ address := base, bytes := [3] }]
            let t := { s with bus := { s.bus with log := s.bus.log ++ [body, outcome, done] } }
            let e : Engine :=
              { s.engine with state := .idle, copy := none, handed := none, answer := none, lastEnd := some o }
            beginScan { t.setCause .request with engine := e }
          let known := slotCode slot ∈ [0x01, 0x02, 0x03, 0x04, 0x10, 0x11, 0x20, 0x21, 0x22, 0x23, 0x24, 0x25, 0x30, 0x31,
            0x32, 0x40]
          (∀ a : Answer, s.engine.answer = some a → exec .requestComplete s = .next (completed a.outcome a.result))
          ∧ (s.engine.answer = none → exec .requestComplete s = .next s)
          ∧ (¬known → exec .badRequest s = .next (completed .badRequest (zeros 16)))
          ∧ (known → exec .badRequest s = .next s))
  ∧ [ReqOutcome.ok, .adjusted, .busy, .badRequest, .badParam, .mapFull, .conflict, .notFound, .loss].map ReqOutcome.code
      = [1, 2, 3, 4, 5, 6, 7, 8, 9]
  ∧ (∀ slot : List Byte, slotCode slot = leNat (fieldAt slot 1 1))
  ∧ let requests : List (Nat × Instr) :=
      [(0x01, .setTime), (0x02, .adjustTime), (0x03, .setFrequency), (0x04, .disciplineSet), (0x10, .portSet),
       (0x11, .portReadmit), (0x20, .mapAdd), (0x21, .mapRemove), (0x22, .patternLoad), (0x23, .channelSet),
       (0x24, .channelStart), (0x25, .channelStop), (0x30, .laneOpen), (0x31, .laneClose), (0x32, .partitionSet),
       (0x40, .countersSnapshot)]
    ∀ request ∈ requests, ∀ s : State,
      ((∀ slot : List Byte, s.engine.handed = some slot → slotCode slot ≠ request.1) → exec request.2 s = .next s)
      ∧ (∀ slot : List Byte, s.engine.handed = some slot → slotCode slot = request.1 → s.engine.state ≠ .busy →
          ∃ t : State, exec request.2 s = .next t ∧ t.engine = { s.engine with handed := none })

/-- A scan begins only while the engine is IDLE, there is a Control Area, the bus is NORMAL and no scan is in progress:
it reads the state byte of the slot after the last one taken. The scan timer begins one at a count that is a multiple
of 40,000, once; NUDGE begins one and makes every STARVED lane with no owner-word read outstanding read its owner word
again, L0 first; the event is otherwise not remembered, and SCAN_TIMER at any other count is nothing (log 2, log 6; the
order at NUDGE: log 23) (R139, R155, R156). A completed slot read of the scan in progress: a state byte of POSTED has
the whole slot read, any other passes the slot over; a whole slot still POSTED is taken (TAKEN is written, the engine
is BUSY with the copy, the slot is the last taken, the scan ends, and the copy is handed to its owner when its code is
one of the sixteen that have one), and one no longer POSTED is passed over. Passing over reads the state byte of the
next slot, wrapping, or ends the scan after the eighth. A read whose scan has ended has no effect (log 15); a
completion at exactly the read's limit still counts (log 12) (R151, R156, R157). A completion more than 4,000,000 cycles
after the issue is discarded (R161), and one of a read that is not outstanding, or not of a slot, or of another length,
is nothing (log 2). -/
def Obligations.ScanFindsAPostedSlot : Prop :=
  (∀ s : State,
      let k := s.engine.lastSlot + 1
      let address := s.bus.areaBase + BitVec.ofNat 64 (64 * k)
      let ready := s.engine.state = .idle ∧ s.bus.areaBase ≠ 0 ∧ s.bus.faulted = false ∧ s.engine.scan = none
      let r : ReadOp :=
        { tag := s.bus.nextTag, purpose := .slotState, address := address, length := 1, issued := s.count, wanted := true }
      let ticks := s.count.toNat % 40000 = 0 ∧ s.bus.scanTaken = false
      (ready → beginScan s =
        { s with
          engine := { s.engine with scan := some { slot := k, left := 8 } }
          bus := { s.bus with reads := s.bus.reads ++ [r], nextTag := s.bus.nextTag + 1
                              log := s.bus.log ++ [.read s.bus.nextTag address 1] } })
      ∧ (¬ready → beginScan s = s)
      ∧ (ticks → exec .scanTimer s = .next (beginScan { s with bus := { s.bus with scanTaken := true } }))
      ∧ (¬ticks → exec .scanTimer s = .next s)
      ∧ exec .nudge s = .next (reread 3 (reread 2 (reread 1 (reread 0 (beginScan s)))))
      ∧ ∀ l : LaneNo,
          let w := s.lane l
          let rereads := w.state = .starved ∧ ∀ x ∈ s.bus.reads, x.purpose ≠ .ownerWord l
          (∀ a : Address, rereads → w.pages[w.nextPage]? = some a →
            reread l s = (s.setLane l { w with rereadAt := none }).issueRead (.ownerWord l) a 4)
          ∧ (¬rereads → reread l s = s))
  ∧ (∀ (tag : Nat) (bytes : List Byte) (r : ReadOp) (s : State), s.readOp tag = some r →
      (s.count - r.issued).toNat ≤ 4000000 → bytes.length = r.length →
      let u := s.dropRead r.tag
      let v := u.noteAge r
      (r.wanted = false ∨ s.engine.scan = none → r.purpose = .slotState ∨ r.purpose = .slotWhole →
        exec (.slotReadDone tag bytes) s = .next u)
      ∧ ∀ scan : Scan, r.wanted = true → s.engine.scan = some scan →
          let address := s.bus.areaBase + BitVec.ofNat 64 (64 * scan.slot)
          let following : Fin 8 := scan.slot + 1
          let passed :=
            if scan.left ≤ 1 then { v with engine := { s.engine with scan := none } }
            else
              ({ v with engine := { s.engine with scan := some { slot := following, left := scan.left - 1 } } }).issueRead
                .slotState (s.bus.areaBase + BitVec.ofNat 64 (64 * following)) 1
          let taken := v.writeAt address [2]
          let owned := ownerOf (slotCode bytes) ≠ none
          (r.purpose = .slotState → bytes = [1] →
            exec (.slotReadDone tag bytes) s = .next (v.issueRead .slotWhole address 64))
          ∧ (r.purpose = .slotState → (∀ b : Byte, bytes = [b] → b ≠ 1) → bytes.length = 1 →
            exec (.slotReadDone tag bytes) s = .next passed)
          ∧ (r.purpose = .slotWhole → leNat (fieldAt bytes 0 1) ≠ 1 → exec (.slotReadDone tag bytes) s = .next passed)
          ∧ (r.purpose = .slotWhole → leNat (fieldAt bytes 0 1) = 1 → exec (.slotReadDone tag bytes) s = .next
              { taken with
                engine :=
                  { s.engine with state := .busy, scan := none, lastSlot := scan.slot, copy := some bytes, answer := none
                                  handed := if owned then some bytes else none } }))
  ∧ (∀ (tag : Nat) (bytes : List Byte) (s : State),
      (∀ r : ReadOp, s.readOp tag = some r →
        4000000 < (s.count - r.issued).toNat ∨ r.purpose ≠ .slotState ∧ r.purpose ≠ .slotWhole
        ∨ bytes.length ≠ r.length) →
      exec (.slotReadDone tag bytes) s = .next s)
  ∧ ∀ code : Nat, ownerOf code ≠ none ↔
      code ∈ [0x01, 0x02, 0x03, 0x04, 0x10, 0x11, 0x20, 0x21, 0x22, 0x23, 0x24, 0x25, 0x30, 0x31, 0x32, 0x40]

/-! ### Registers -/

/-- A write of the lower half of AREA_BASE is held; a 64-bit write or a write of the upper half, joined to the held
lower half or else to the one that stands, presents a value and uses the held half up. It is taken, its 12 lowest bits
as 0, when the bus is NORMAL, every lane is CLOSED and the engine is not BUSY: 0 makes the engine STOPPED, another
value makes a STOPPED engine IDLE with the last slot 7; a scan in progress ends and its read is no longer wanted. Else
nothing more happens (R151). A read of CAUSE returns its eight bits (as a reply in the log of outputs, log 4) and
clears them; nothing else changes. A write to a register that takes no writes, or to no register, changes nothing. A
CONTROL write sets the notify enable and the eight cause enables at once, and CONTROL reads them back; with FRESET it
is a function reset instead, after which CONTROL reads 0 (R152; that SET_ENABLES is the whole write of CONTROL: log
33). The change of the enables sends an interrupt message exactly when it turns the summary from false to true and the
host has message sending enabled (R154; what is put out stands in the model's log of outputs, log 4). IDENT reads
2408_0101h, CONTROL and NUDGE as R150 and R176 state, a half of a 64-bit register that half, a bit that R176 does not
assign 0, and an offset that holds no register 0 (R150, R153, R176). Setting a cause, here and in every statement, sets
its bit of CAUSE and no other, whatever the enables (LANE0 to LANE3 are bits 0 to 3, REQUEST 4, TIME 5, PORT 6, FAULT
7), leaves a set bit set, and changes nothing else but for the message that a rise of the summary sends (R153, R154,
R176). -/
def Obligations.RegistersTakeTheirAccesses : Prop :=
  (∀ s : State,
      let takes := s.bus.faulted = false ∧ (∀ l : LaneNo, (s.lane l).state = .closed) ∧ s.engine.state ≠ .busy
      let presented (v : BitVec 64) (o : Host.Outcome State Fault Refusal) : Prop :=
        let base := v &&& 0xFFFFFFFFFFFFF000#64
        let disowned := s.bus.reads.map fun r =>
          if r.purpose = .slotState ∨ r.purpose = .slotWhole then { r with wanted := false } else r
        let starts := base ≠ 0 ∧ s.engine.state = .stopped
        (takes → o = .next
          { s with
            bus := { s.bus with heldLower := none, areaBase := base, reads := disowned }
            engine := { s.engine with state := if base = 0 then .stopped else .idle, scan := none
                                      lastSlot := if starts then 7 else s.engine.lastSlot } })
        ∧ (¬takes → o = .next { s with bus := { s.bus with heldLower := none } })
      (∀ v : BitVec 64, presented v (exec (.areaBaseWrite (.whole v)) s))
      ∧ (∀ v : BitVec 32, exec (.areaBaseWrite (.lowerHalf v)) s = .next { s with bus := { s.bus with heldLower := some v } })
      ∧ ∀ v lower : BitVec 32, s.bus.heldLower = some lower ∨ s.bus.heldLower = none ∧ lower = s.bus.areaBase.setWidth 32 →
          presented (v ++ lower) (exec (.areaBaseWrite (.upperHalf v)) s))
  ∧ (∀ (offset value : BitVec 32) (s : State),
      let b := s.bus
      exec .causeRead s = .next { s with bus := { b with cause := 0, log := b.log ++ [.reply (b.cause.setWidth 32)] } }
      ∧ exec (.ignoredRegisterWrite offset value) s = .next s
      ∧ b.readHalf 0x00 = 0x24080101 ∧ b.readHalf 0x14 = 0
      ∧ b.readWhole 0x08 = b.areaBase ∧ b.readWhole 0x20 = b.faultAddr ∧ b.readHalf 0x18 = b.cause.setWidth 32
      ∧ b.readHalf 0x08 = b.areaBase.extractLsb' 0 32 ∧ b.readHalf 0x0C = b.areaBase.extractLsb' 32 32
      ∧ b.readHalf 0x20 = b.faultAddr.extractLsb' 0 32 ∧ b.readHalf 0x24 = b.faultAddr.extractLsb' 32 32
      ∧ b.readHalf 0x10 = b.control
      ∧ (∀ i : Nat, i ≠ 0 → ¬(8 ≤ i ∧ i < 16) → (b.readHalf 0x10).getLsbD i = false)
      ∧ (b.readHalf 0x10).getLsbD 0 = b.notify ∧ (b.readHalf 0x10).extractLsb' 8 8 = b.enables
      ∧ (b.readHalf 0x10).getLsbD 31 = false
      ∧ ∀ o : Nat, o ∉ [0x00, 0x08, 0x0C, 0x10, 0x18, 0x20, 0x24] → b.readHalf o = 0)
  ∧ (∀ (v : BitVec 32) (s : State),
      let summary (b : BusInterface) : Prop := b.notify = true ∧ b.cause &&& b.enables ≠ 0
      let b : BusInterface := { s.bus with notify := v.getLsbD 0, enables := v.extractLsb' 8 8 }
      let sends := ¬summary s.bus ∧ summary b ∧ s.bus.message.sending = true
      let message : BusEvent := .message s.bus.message.address s.bus.message.data
      (v.getLsbD 31 = false → ∃ t : State, exec (.setEnables v) s = .next t ∧ t.bus.control = v &&& 0x0000FF01#32
        ∧ t = { s with bus := { b with log := t.bus.log } }
        ∧ (sends → t.bus.log = s.bus.log ++ [message]) ∧ (¬sends → t.bus.log = s.bus.log))
      ∧ (v.getLsbD 31 = true → exec (.setEnables v) s = exec .functionReset s
          ∧ ∃ t : State, exec (.setEnables v) s = .next t ∧ t.bus.control = 0))
  ∧ (∀ (bit : CauseBit) (s : State),
      let summary (b : BusInterface) : Prop := b.notify = true ∧ b.cause &&& b.enables ≠ 0
      let number : Nat :=
        match bit with
        | .lane l => l
        | .request => 4
        | .time => 5
        | .port => 6
        | .fault => 7
      let t := s.setCause bit
      let sends := ¬summary s.bus ∧ summary t.bus ∧ s.bus.message.sending = true
      let message : BusEvent := .message s.bus.message.address s.bus.message.data
      (∀ i : Nat, t.bus.cause.getLsbD i = (s.bus.cause.getLsbD i || decide (i = number)))
      ∧ t = { s with bus := { s.bus with cause := t.bus.cause, log := t.bus.log } }
      ∧ (sends → t.bus.log = s.bus.log ++ [message]) ∧ (¬sends → t.bus.log = s.bus.log))

/-! ### The Status Block, the counters and read failure -/

/-- At a count that is a multiple of 400,000, once, with a Control Area and the bus NORMAL, a refresh writes the Status
Block's fields in rising order with no byte between them from 400h to 503h, each with the value of this moment, the
refresh count, one more than before, in the first and the last; the slow-read flag is cleared and nothing else changes.
Otherwise nothing happens (log 2, log 6; the writes and their values at one moment: log 26; the count: log 13) (R17,
R36, R54, R148, R160, R174). -/
def Obligations.StatusRefreshWritesTheBlock : Prop :=
  ∀ s : State,
    let b := s.bus
    let d := s.discipline
    let time := s.timebase
    let due := s.count.toNat % 400000 = 0 ∧ b.refreshTaken = false ∧ b.areaBase ≠ 0 ∧ b.faulted = false
    let n := b.refreshCount + 1
    let yes (x : Bool) : List Byte := if x then [1] else [0]
    let quality : List Byte :=
      match d.state with
      | .free => [0]
      | .acquiring => [1]
      | .locked => [2]
      | .holdover => [3]
    let engine : List Byte :=
      match s.engine.state with
      | .stopped => [0]
      | .idle => [1]
      | .busy => [2]
    let unit : List (Nat × List Byte) :=
      [(0x404, engine), (0x405, yes b.slowRead), (0x406, zeros 2), (0x408, quality), (0x409, yes d.enabled),
       (0x40A, leBytes 2 time.epoch.toNat), (0x40C, leInt 4 time.freq),
       (0x410, leInt 4 (roundDiv time.slew 4294967296)), (0x414, zeros 4), (0x418, leInt 8 d.lastError),
       (0x420, leBytes 4 time.sec.toNat), (0x424, leBytes 4 (time.sub / 4294967296)),
       (0x428, leBytes 1 (time.sub / 134217728 % 32)), (0x429, quality), (0x42A, zeros 6),
       (0x430, leBytes 2 d.active.ppsDelay), (0x432, leBytes 2 d.active.slewRate),
       (0x434, leBytes 4 d.active.stepThreshold), (0x438, leBytes 4 d.active.lockThreshold),
       (0x43C, leBytes 1 d.active.gain), (0x43D, yes d.active.backwardSlew), (0x43E, yes (decide (d.polarity = .falling))),
       (0x43F, match d.lane with
        | none => [0xFF]
        | some l => leBytes 1 l),
       (0x440, yes (decide (d.lampPolarity = .activeLow))), (0x441, zeros 63)]
    let lane (l : LaneNo) : List (Nat × List Byte) :=
      let w := s.lane l
      let at' : Nat := 0x480 + 16 * l
      let state : List Byte :=
        match w.state with
        | .closed => [0]
        | .opened => [1]
        | .starved => [2]
        | .closing => [3]
        | .halted => [4]
      [(at', state), (at' + 1, zeros 1), (at' + 2, leBytes 2 w.nextPage), (at' + 4, leBytes 4 w.closedPages.toNat),
       (at' + 8, leBytes 4 w.serial.toNat), (at' + 12, leBytes 4 (s.stage l).dropTotal.toNat)]
    let port (k : PortNo) : List (Nat × List Byte) :=
      let p := s.port k
      let at' : Nat := 0x4C0 + 8 * k
      let link : List Byte := if p.enabled = false then [0] else if p.link = .down then [1] else [2]
      let health : List Byte :=
        match p.health with
        | .normal => [0]
        | .degraded => [1]
        | .fenced => [2]
      [(at', link), (at' + 1, health), (at' + 2, zeros 2), (at' + 4, leBytes 4 p.windowCount)]
    let fields : List (Nat × List Byte) :=
      [(0x400, leBytes 4 n.toNat)] ++ unit ++ lane 0 ++ lane 1 ++ lane 2 ++ lane 3 ++ port 0 ++ port 1 ++ port 2 ++ port 3
        ++ port 4 ++ port 5 ++ port 6 ++ port 7 ++ [(0x500, leBytes 4 n.toNat)]
    let put (f : Nat × List Byte) : BusEvent :=
      .write [{ address := b.areaBase + BitVec.ofNat 64 f.1, bytes := f.2 }]
    (¬due → exec .statusRefresh s = .next s)
    ∧ (due → exec .statusRefresh s = .next
        { s with bus := { b with refreshTaken := true, refreshCount := n, slowRead := false, log := b.log ++ fields.map put } })
    ∧ fields.IsChain (fun f g => g.1 = f.1 + f.2.length)

/-- COUNTERS_SNAPSHOT: a buffer address of 0 or not a multiple of 8, or a clear option above 1, is refused, with a
result of 0 (log 11); otherwise, in the NORMAL state of the bus, the copy begins with the first counter and a reading
of the DTC. Each copy takes the next counter, clears it and no other if asked, and writes its 8 bytes at its place (an
address past the top of the address space wraps, log 31); after the last the request is OK, with the reading and 3,467.
Each of the 3,467 counters has exactly one place, block by block from the bases and in the order of R175; COUNTER_COPY
with no copy in progress is nothing (log 2) (R159, R173, R175). -/
def Obligations.CounterSnapshotCopiesEveryCounter : Prop :=
  ∀ (slot : List Byte) (s : State),
    let buffer := leNat (fieldAt slot 8 8)
    let clear := leNat (fieldAt slot 16 1)
    let copy : SnapshotCopy :=
      { buffer := BitVec.ofNat 64 buffer, clear := clear = 1, next := 0, reading := s.reading }
    let bad := buffer = 0 ∨ buffer % 8 ≠ 0 ∨ 1 < clear
    (s.Holds 0x40 slot → bad → exec .countersSnapshot s = .next (s.returns .badParam (zeros 16)))
    ∧ (s.Holds 0x40 slot → ¬bad → s.bus.faulted = false →
        exec .countersSnapshot s = .next { s.begun with bus := { s.bus with snapshot := some copy } })
    ∧ (s.bus.snapshot = none → exec .counterCopy s = .next s)
    ∧ (∀ (c : SnapshotCopy) (name : Counter), s.bus.snapshot = some c → counterAt c.next = some name →
        s.bus.faulted = false →
        let t := if c.clear then { s with counters := s.counters.put name 0 } else s
        let u := t.writeAt (c.buffer + BitVec.ofNat 64 (8 * c.next)) (leBytes 8 (s.counters.get name).toNat)
        let d := c.reading
        let result := leBytes 4 d.time.sec.toNat ++ leBytes 4 d.time.ns ++ leBytes 2 d.epoch.toNat
          ++ leBytes 1 d.quality.code ++ zeros 1 ++ leBytes 4 3467
        (c.next + 1 < 3467 → exec .counterCopy s = .next
          { u with bus := { u.bus with snapshot := some { c with next := c.next + 1 } } })
        ∧ (c.next + 1 = 3467 → s.engine.state = .busy → s.engine.handed = none → exec .counterCopy s = .next
          (({ u with bus := { u.bus with snapshot := none } }).returns .ok result)))
    ∧ (∀ name : Counter, ∃! i : Nat, i < 3467 ∧ counterAt i = some name)
    ∧ (∀ k : PortNo, (List.range 9).map (fun i => counterAt (9 * k + i)) =
        [.passed, .runts, .giants, .fcsErrors, .fencedDiscards, .overruns, .aborted, .badCaptured, .noticeNoLane].map
          fun c => some (.port k c))
    ∧ (∀ k : PortNo, (List.range 3).map (fun i => counterAt (72 + 3 * k + i)) =
        [.notUdp, .noMap, .channelOff].map fun c => some (.classifierPort k c))
    ∧ (List.range 4).map (fun i => counterAt (96 + i)) =
        [.setSteps, .adjustSteps, .disciplineSteps, .stepNoLane].map (fun c => some (.timebase c))
    ∧ (List.range 6).map (fun i => counterAt (100 + i)) =
        [.accepted, .irregular, .held, .setAside, .holdovers, .timeNoLane].map (fun c => some (.discipline c))
    ∧ (∀ ch : ChannelNo, (List.range 5).map (fun i => counterAt (106 + 5 * ch + i)) =
        [.classified, .foreignMarker, .foreignShort, .stopDiscards, .noLane].map fun c => some (.classifierChannel ch c))
    ∧ (∀ ch : ChannelNo, (List.range 5).map (fun i => counterAt (1386 + 5 * ch + i)) =
        [.published, .partners, .duplicates, .stale, .resyncs].map fun c => some (.table ch c))
    ∧ (∀ ch : ChannelNo, (List.range 3).map (fun i => counterAt (2666 + 3 * ch + i)) =
        [.gaps, .lineMisses, .evictions].map fun c => some (.expiry ch c))
    ∧ counterAt 3434 = some .poolFull
    ∧ (∀ l : LaneNo, (List.range 8).map (fun i => counterAt (3435 + 8 * l + i)) =
        [.written, .droppedWritten, .recordsDropped, .fullCloses, .lingerCloses, .flushCloses, .starvations,
         .closeDiscards].map fun c => some (.lane l c))
    ∧ (∀ (cs : Counters) (name c : Counter) (v : Count), (cs.put name v).get c = if c = name then v else cs.get c)
    ∧ [Quality.free, .acquiring, .locked, .holdover].map Quality.code = [0, 1, 2, 3]

/-- A read failure in the NORMAL state, reported within the read's limit or at its limit: FAULT_ADDR is the read's
address, the bus is FAULTED with no read outstanding and no snapshot copy, CAUSE FAULT is set; the engine is STOPPED
with no scan, a request in flight having ended with FAULTED; every OPEN, STARVED or CLOSING lane is HALTED with its
timers stopped. While FAULTED a failure only ends its read; a report after the limit, a limit not reached, or either
for a read that is not outstanding, is nothing (log 2, log 12) (R146, R161, R162). What was handed to an owner stays
with it, so that the owner may still carry the request out (log 30), and the engine's record of how its last request
ended is the model's own (log 7). -/
def Obligations.ReadFailureFaultsTheBus : Prop :=
  (∀ (tag : Nat) (r : ReadOp) (s : State), s.readOp tag = some r →
      let age := (s.count - r.issued).toNat
      let e := s.engine
      let halted (w : Lane) : Lane :=
        if w.state = .closed ∨ w.state = .halted then { w with opening := none }
        else { w with state := .halted, lingerAt := none, holdoffAt := none, rereadAt := none, pendingCloses := 0
                      opening := none }
      let faulted (o : Host.Outcome State Fault Refusal) : Prop := ∃ lanes : Vector Lane 4,
        let t : State :=
          { s with
            lanes := lanes
            engine := { e with state := .stopped, scan := none, copy := none, answer := none
                               lastEnd := if e.state = .busy then some .faulted else e.lastEnd }
            bus := { s.bus with faultAddr := r.address, faulted := true, reads := [], snapshot := none } }
        (∀ l : LaneNo, t.lane l = halted (s.lane l)) ∧ o = .next (t.setCause .fault)
      (s.bus.faulted = false → age ≤ 4000000 → faulted (exec (.readFailure tag) s))
      ∧ (s.bus.faulted = false → 4000000 ≤ age → faulted (exec (.readLimitExpiry tag) s))
      ∧ (s.bus.faulted = true → age ≤ 4000000 → exec (.readFailure tag) s = .next (s.dropRead r.tag))
      ∧ (s.bus.faulted = true → 4000000 ≤ age → exec (.readLimitExpiry tag) s = .next (s.dropRead r.tag))
      ∧ (4000000 < age → exec (.readFailure tag) s = .next s)
      ∧ (age < 4000000 → exec (.readLimitExpiry tag) s = .next s))
  ∧ ∀ (tag : Nat) (s : State), s.readOp tag = none →
      exec (.readFailure tag) s = .next s ∧ exec (.readLimitExpiry tag) s = .next s

/-! ### Arithmetic -/

/-- Composition is one rounding: for a capture and delay in the ranges of the rules, the time is the seconds and
subsecond of the snapshot, plus the share of the increment that the phase gives (rounded down), minus the delay, taken
to thirty-seconds with a half up; the seconds wrap at 2^32, and a result before zero is clamped to zero, flagged, its
subsecond value kept (R58 to R62). -/
def Obligations.CompositionIsOneRounding : Prop :=
  ∀ (c : Capture) (delay : Nat), c.snap.sub < Config.oneSecond → delay ≤ 65535 →
    10729902047 ≤ c.snap.increment → c.snap.increment ≤ 10744934433 →
    let exact : Int := c.snap.sec.toNat * (Config.oneSecond : Int) + c.snap.sub
      + c.stamp.p.toNat * c.snap.increment / 16 - delay * 134217728
    let x : Int := (exact + 67108864) / 134217728
    let r := compose c delay
    (r.q : Int) = x % 32000000000
    ∧ (x < 0 → r.clamped = true ∧ r.time = { sec := 0, ns := 0, th := 0 })
    ∧ (0 ≤ x → r.clamped = false ∧ r.time.ns < 1000000000 ∧ r.time.th < 32
        ∧ (r.time.sec.toNat * 32000000000 + r.time.ns * 32 + r.time.th : Int) = x % (4294967296 * 32000000000))

/-- The lead of a partner: the difference of the oscillator counts, modulo 2^64 and signed, times 80, plus five times
the difference of the phases, minus the difference of the delays; brought into ±2,147,483,647, which four bytes hold;
INVERTED exactly when it is below 0 (R65, R66). -/
def Obligations.LeadIsSaturatedDifference : Prop :=
  ∀ (f : Classified) (e : Entry) (w : Winner),
    let d : Int := (f.capture.stamp.n - w.stamp.n).toInt
    let exact : Int := d * 80 + 5 * (f.capture.stamp.p.toNat - w.stamp.p.toNat) - (f.delay - w.delay)
    let lead := (partnerRecord f e w).lead
    (2147483647 < exact → lead = 2147483647) ∧ (exact < -2147483647 → lead = -2147483647)
    ∧ (-2147483647 ≤ exact → exact ≤ 2147483647 → lead = exact)
    ∧ ((partnerRecord f e w).inverted = true ↔ exact < 0)
    ∧ signedOf 4 (leNat (leInt 4 lead)) = lead

/-- The bytes of a record: so many as its length, a multiple of 8, with the common part at its offsets; the source,
flags and thirty-seconds of every kind but DROPPED at theirs; and the own fields of each of the nine kinds, an ARRIVAL
record's captured bytes last and padded with zeros, every byte that no field names 0 (R164 to R169). Every multi-byte
field is little-endian, a signed one in two's complement. -/
def Obligations.RecordBytesHoldTheirFields : Prop :=
  (∀ (r : Record) (serial : BitVec 32),
      let bytes := r.encode serial
      let at' (offset width n : Nat) : Prop := fieldAt bytes offset width = leBytes width n
      let signed (offset width : Nat) (i : Int) : Prop := fieldAt bytes offset width = leInt width i
      let zero (offset width : Nat) : Prop := fieldAt bytes offset width = zeros width
      let bit (n : Nat) (b : Bool) : Nat := if b then 2 ^ n else 0
      let yes (b : Bool) : Nat := if b then 1 else 0
      let line : Line → Nat
        | .a => 0
        | .b => 1
      let quality : Quality → Nat
        | .free => 0
        | .acquiring => 1
        | .locked => 2
        | .holdover => 3
      let removal : Removal → Nat
        | .expired => 0
        | .evicted => 1
        | .flushed => 2
      let d := r.dated
      let source (channel port line : Nat) : Prop := at' 8 2 channel ∧ at' 10 1 port ∧ at' 11 1 line
      bytes.length = r.length ∧ r.length % 8 = 0
      ∧ at' 1 1 (quality d.quality) ∧ at' 2 2 r.length ∧ at' 4 4 serial.toNat ∧ at' 14 2 d.epoch.toNat
      ∧ at' 16 4 d.time.sec.toNat ∧ at' 20 4 d.time.ns
      ∧ (r.isDropped = false → at' 24 1 d.time.th)
      ∧ (∀ x : ArrivalRecord, r = .arrival x →
          let f := x.flags
          let reason : Nat :=
            match x.reason with
            | .none => 0
            | .notUdp => 1
            | .noMap => 2
            | .channelOff => 3
            | .marker => 4
            | .short => 5
          d = x.time ∧ at' 0 1 1 ∧ r.length = 64 + (x.captured.length + 7) / 8 * 8
          ∧ source (x.channel.elim 0xFFFF fun c => c) x.port (x.line.elim 0xFF line)
          ∧ at' 12 2 (bit 0 f.published + bit 1 f.fill + bit 2 f.isPartial + bit 3 f.duplicate + bit 4 f.stale
              + bit 5 f.heartbeat + bit 6 f.resync + bit 7 f.unmapped + bit 8 f.foreign + bit 9 f.badFcs
              + bit 10 f.truncated + bit 11 f.timeClamped)
          ∧ at' 25 1 reason ∧ at' 26 2 x.frameLength ∧ at' 28 2 x.captured.length ∧ at' 30 2 x.msgCount
          ∧ at' 32 8 x.first ∧ at' 40 8 x.pubFirst ∧ at' 48 2 x.pubCount ∧ zero 50 6
          ∧ at' 56 8 (x.stamp.n.toNat * 16 + x.stamp.p.toNat)
          ∧ bytes.drop 64 = x.captured ++ zeros (r.length - 64 - x.captured.length))
      ∧ (∀ x : PartnerRecord, r = .partner x → d = x.time ∧ at' 0 1 2 ∧ r.length = 48
          ∧ source x.channel x.port (line x.line)
          ∧ at' 12 2 (bit 0 x.misaligned + bit 1 x.inverted) ∧ at' 25 1 x.winnerPort ∧ at' 26 2 x.count
          ∧ signed 28 4 x.lead ∧ at' 32 8 x.first ∧ zero 40 8)
      ∧ (∀ x : GapRecord, r = .gap x → d = x.time ∧ at' 0 1 3 ∧ r.length = 48 ∧ source x.channel x.port 0xFF
          ∧ at' 12 2 (removal x.removal) ∧ at' 25 1 (yes x.reached) ∧ zero 26 2 ∧ at' 28 4 x.held ∧ at' 32 8 x.first
          ∧ at' 40 8 x.count)
      ∧ (∀ x : LineMissRecord, r = .lineMiss x → d = x.time ∧ at' 0 1 4 ∧ r.length = 48
          ∧ source x.channel x.port (line x.line)
          ∧ at' 12 2 (removal x.removal) ∧ at' 25 1 (1 - line x.line) ∧ at' 26 1 (yes x.reached) ∧ zero 27 1
          ∧ at' 28 4 x.held ∧ at' 32 8 x.first ∧ at' 40 2 x.count ∧ zero 42 6)
      ∧ (∀ x : ResyncRecord, r = .resync x → d = x.time ∧ at' 0 1 5 ∧ r.length = 48
          ∧ source x.channel x.port (line x.line) ∧ at' 12 2 0
          ∧ at' 25 1 (if x.direction = .ahead then 0 else 1) ∧ at' 26 2 x.flushed ∧ zero 28 4 ∧ at' 32 8 x.oldNext
          ∧ at' 40 8 x.newNext)
      ∧ (∀ x : DroppedRecord, r = .dropped x → d = x.time ∧ at' 0 1 6 ∧ r.length = 48 ∧ at' 8 2 x.first.epoch.toNat
          ∧ at' 10 2 x.last.epoch.toNat ∧ at' 12 1 x.time.time.th ∧ zero 13 1 ∧ at' 24 4 x.dropped ∧ at' 28 4 x.arrivals
          ∧ at' 32 4 x.first.sec.toNat ∧ at' 36 4 x.first.ns ∧ at' 40 4 x.last.sec.toNat ∧ at' 44 4 x.last.ns)
      ∧ (∀ x : StepRecord, r = .step x →
          let cause : Nat :=
            match x.cause with
            | .set => 1
            | .adjust => 2
            | .discipline => 3
          d = x.time ∧ at' 0 1 7 ∧ r.length = 48 ∧ source 0xFFFF 0xFF 0xFF ∧ at' 12 2 0 ∧ at' 25 1 cause ∧ zero 26 2
          ∧ at' 28 4 x.oldNs
          ∧ at' 32 4 x.oldSec.toNat ∧ zero 36 4 ∧ signed 40 8 x.offset)
      ∧ (∀ x : PortRecord, r = .port x →
          let health : Nat :=
            match x.health with
            | .normal => 0
            | .degraded => 1
            | .fenced => 2
          d = x.time ∧ at' 0 1 8 ∧ r.length = 48 ∧ source 0xFFFF x.port 0xFF ∧ at' 12 2 0
          ∧ at' 25 1 (if x.link = .down then 0 else 1)
          ∧ at' 26 1 health ∧ zero 27 1 ∧ at' 28 4 x.windowCount ∧ zero 32 16)
      ∧ ∀ x : TimeRecord, r = .time x →
          let event : Nat :=
            match x.event with
            | .edge => 1
            | .holdover => 2
            | .disabled => 3
          d = x.time ∧ at' 0 1 9 ∧ r.length = 48 ∧ source 0xFFFF 0xFF 0xFF
          ∧ at' 12 2 (bit 0 x.stepped + bit 1 x.held + bit 2 x.setAside)
          ∧ at' 25 1 event ∧ at' 26 1 (quality x.state) ∧ zero 27 1 ∧ signed 28 4 x.freq ∧ signed 32 8 x.error
          ∧ signed 40 4 x.slewNs ∧ zero 44 4)
  ∧ (∀ (width n : Nat), leBytes 0 n = [] ∧ leBytes (width + 1) n = BitVec.ofNat 8 n :: leBytes width (n / 256))
  ∧ (∀ (width n : Nat) (i : Int), leInt width i = leBytes width (i % (2 ^ (8 * width) : Nat)).toNat
      ∧ signedOf width n = if n < 2 ^ (8 * width - 1) then (n : Int) else n - (2 ^ (8 * width) : Nat))
  ∧ ∀ (bs : List Byte) (offset width : Nat),
      fieldAt bs offset width = (bs.drop offset).take width ∧ zeros width = List.replicate width 0

/-! ### What every step keeps -/

/-- Every invariant of the model holds after a cold reset (R1, R22, R37, R55, R71, R88, R89, R114, R128, R149, R163). -/
def Obligations.ResetMeetsEveryInvariant : Prop :=
  State.reset.TimebaseInRange ∧ State.reset.discipline.Coherent ∧ State.reset.PortsCoherent
    ∧ (∀ k : PortNo, (State.reset.map k).KeysOnce) ∧ State.reset.PoolBounded ∧ State.reset.StagingBounded
    ∧ State.reset.EntriesApart ∧ State.reset.QueueOrdered ∧ State.reset.BusCoherent

/-- Every step keeps the subsecond, F, R, S and the adoption settings in their ranges, and the discipline state
machine coherent (R22, R25, R40, R41, R46, R50, R53). -/
def Obligations.StepKeepsTimeInRange : Prop :=
  ∀ s t : State, s.TimebaseInRange → s.discipline.Coherent → step s = .next t →
    t.TimebaseInRange ∧ t.discipline.Coherent

/-- Every step keeps every port coherent, its handoff queue holding at most 16 frames of legal length and good FCS,
and every key at one index of each address map at most (R3, R8 to R10, R12, R18, R71). -/
def Obligations.StepKeepsPortsAndMaps : Prop :=
  ∀ s t : State, s.PortsCoherent → (∀ k : PortNo, (s.map k).KeysOnce) → step s = .next t →
    t.PortsCoherent ∧ ∀ k : PortNo, (t.map k).KeysOnce

/-- Every step keeps the pool within 4,096 entries and every channel within its entry cap; a channel that is OFF holds
no entry and has NextSeq unset (R89, R91, R121). Every step keeps the Staging Buffer within its partition and the
tallies coherent (R129, R130, R132, R144). -/
def Obligations.StepKeepsPoolAndStagingBounded : Prop :=
  (∀ s t : State, s.PoolBounded → step s = .next t → t.PoolBounded)
  ∧ (∀ s t : State, s.StagingBounded → step s = .next t → t.StagingBounded)

/-- Every step keeps the entries of every channel behind its NextSeq and apart from each other, so that a sequence
number lies in at most one of them, with counts in their ranges, AWAIT entries on PAIRED channels only, and none on a
channel that is OFF (R80, R84, R89, R90, R91). -/
def Obligations.StepKeepsEntriesBehindAndApart : Prop :=
  ∀ s t : State, s.EntriesApart → step s = .next t → t.EntriesApart

/-- Every step keeps the Expiry Queue in its order, as long as the live deadlines lie within half the range of the
oscillator count and the creation orders of the live entries lie behind the next one by far less than half their range,
as R115 says they do; the entries then again lie behind the next creation order (R90, R115). -/
def Obligations.StepKeepsTheExpiryQueueInOrder : Prop :=
  ∀ (s t : State) (base : Count), s.QueueOrdered →
    (∀ e ∈ s.entries, 1 ≤ (s.nextOrder - e.order).toNat ∧ (s.nextOrder - e.order).toNat ≤ 2 ^ 31 - 3) →
    (∀ e : Entry, e ∈ s.entries ∨ e ∈ t.entries → (e.deadline - base).toNat < 2 ^ 63) →
    step s = .next t →
    t.QueueOrdered
      ∧ ∀ e ∈ t.entries, 1 ≤ (t.nextOrder - e.order).toNat ∧ (t.nextOrder - e.order).toNat ≤ 2 ^ 31 - 1

/-- Every step keeps the Bus Interface, the Request Engine and the lanes coherent with each other (R146, R151, R155 to
R157, R162). -/
def Obligations.StepKeepsTheBusCoherent : Prop := ∀ s t : State, s.BusCoherent → step s = .next t → t.BusCoherent

/-! ### Rules of the whole machine -/

/-- Within one epoch the DTC never runs back: a step that keeps the epoch leaves the DTC as it was or moves it on by
one cycle's increment, which is positive, modulo 2^32 seconds; and only COLD_RESET and a step of the DTC (SET_TIME,
ADJUST_TIME, DISCIPLINE_CORRECTION) change the epoch, a step of the DTC by 1 (R22, R23, R28). -/
def Obligations.TimeNeverRunsBackWithinAnEpoch : Prop :=
  ∀ (c : Instr) (s t : State), s.TimebaseInRange → s.discipline.Coherent → exec c s = .next t →
    (c ≠ .coldReset → t.timebase.epoch = s.timebase.epoch →
      t.timebase.total = s.timebase.total
      ∨ 0 < s.increment
        ∧ t.timebase.total = (s.timebase.total + s.increment) % (4294967296 * Config.oneSecond : Nat))
    ∧ (c ≠ .coldReset → c ≠ .setTime → c ≠ .adjustTime → c ≠ .disciplineCorrection →
        t.timebase.epoch = s.timebase.epoch)
    ∧ (c = .setTime ∨ c = .adjustTime ∨ c = .disciplineCorrection →
        t.timebase.epoch = s.timebase.epoch ∨ t.timebase.epoch = s.timebase.epoch + 1)

/-- In the FAULTED state no step issues a host-memory read or write: what it puts out is interrupt messages and
replies; and the state is left only by a reset (R162). In the NORMAL state a write, and a read with the next number,
join the log of outputs (log 4, log 5), and the read is outstanding; a write into the Control Area is issued only while
there is one (R151). -/
def Obligations.FaultedBusIssuesNoMemoryAccess : Prop :=
  (∀ (c : Instr) (s t : State), s.bus.faulted = true → exec c s = .next t →
      (∃ events : List BusEvent, t.bus.log = s.bus.log ++ events ∧ ∀ e ∈ events, e.offMemory = true)
      ∧ (t.bus.faulted = false →
          c = .coldReset ∨ c = .functionReset ∨ ∃ v : BitVec 32, c = .setEnables v ∧ v.getLsbD 31 = true))
  ∧ ∀ (purpose : ReadPurpose) (address : Address) (bytes : List Byte) (n : Nat) (s : State),
      let b := s.bus
      let r : ReadOp :=
        { tag := b.nextTag, purpose := purpose, address := address, length := n, issued := s.count, wanted := true }
      (b.faulted = true → s.writeAt address bytes = s ∧ s.issueRead purpose address n = s)
      ∧ (b.faulted = false →
        s.writeAt address bytes =
          { s with bus := { b with log := b.log ++ [.write [{ address := address, bytes := bytes }]] } }
        ∧ s.issueRead purpose address n =
          { s with bus := { b with reads := b.reads ++ [r], nextTag := b.nextTag + 1
                                   log := b.log ++ [.read b.nextTag address n] } })
      ∧ (b.areaBase = 0 → s.writeArea n bytes = s)
      ∧ (b.areaBase ≠ 0 → s.writeArea n bytes = s.writeAt (b.areaBase + BitVec.ofNat 64 n) bytes)

/-- A step sends one interrupt message, with the host's address and data, when it turns the summary from false to true
and the host has message sending enabled, and otherwise none (R154). The summary is true when the notify enable is on
and an enabled bit of CAUSE is set (R154). What was put out before stays, resets included: the log of outputs is the
model's own (log 4, log 36). -/
def Obligations.MessageIsSentWhenSummaryRises : Prop :=
  (∀ (c : Instr) (s t : State), exec c s = .next t →
      let rises := s.bus.summary = false ∧ t.bus.summary = true ∧ s.bus.message.sending = true
      ∃ events : List BusEvent, t.bus.log = s.bus.log ++ events
        ∧ events.filter BusEvent.isMessage = if rises then [.message s.bus.message.address s.bus.message.data] else [])
  ∧ ∀ b : BusInterface, b.summary = true ↔ b.notify = true ∧ b.cause &&& b.enables ≠ 0
end

