-- ==== Sys2Proof/Laws/State.lean ====
section
/-! SUPPORT. One lemma per field of State for each shared update: the field it changes, and every other as it was. -/

namespace Sys2Proof.Machine

/-! ### setPort -/

@[simp] theorem State.setPort_port_self (s : State) (k : PortNo) (p : Port) : (s.setPort k p).port k = p := by
  simp [State.setPort, State.port]
theorem State.setPort_port_of_ne (s : State) {i j : PortNo} (p : Port) (h : i ≠ j) :
    (s.setPort i p).port j = s.port j := by
  have : (i : Nat) ≠ j := fun e => h (Fin.ext e)
  simp [State.setPort, State.port, this]
@[simp] theorem State.setPort_setPort (s : State) (k : PortNo) (p p' : Port) : (s.setPort k p).setPort k p' = s.setPort k p' := by
  simp [State.setPort]
@[simp] theorem State.setPort_port (s : State) (k : PortNo) : s.setPort k (s.port k) = s := by
  simp [State.setPort, State.port]
theorem State.bump_setPort (s : State) (name : Counter) (k : PortNo) (p : Port) :
    (s.bump name).setPort k p = (s.setPort k p).bump name := rfl
@[simp] theorem State.setPort_pending (s : State) (k : PortNo) (p : Port) : (s.setPort k p).pending = s.pending := rfl
@[simp] theorem State.setPort_count (s : State) (k : PortNo) (p : Port) : (s.setPort k p).count = s.count := rfl
@[simp] theorem State.setPort_timebase (s : State) (k : PortNo) (p : Port) : (s.setPort k p).timebase = s.timebase := rfl
@[simp] theorem State.setPort_discipline (s : State) (k : PortNo) (p : Port) : (s.setPort k p).discipline = s.discipline := rfl
@[simp] theorem State.setPort_maps (s : State) (k : PortNo) (p : Port) : (s.setPort k p).maps = s.maps := rfl
@[simp] theorem State.setPort_patterns (s : State) (k : PortNo) (p : Port) : (s.setPort k p).patterns = s.patterns := rfl
@[simp] theorem State.setPort_channels (s : State) (k : PortNo) (p : Port) : (s.setPort k p).channels = s.channels := rfl
@[simp] theorem State.setPort_waiting (s : State) (k : PortNo) (p : Port) : (s.setPort k p).waiting = s.waiting := rfl
@[simp] theorem State.setPort_input (s : State) (k : PortNo) (p : Port) : (s.setPort k p).input = s.input := rfl
@[simp] theorem State.setPort_entries (s : State) (k : PortNo) (p : Port) : (s.setPort k p).entries = s.entries := rfl
@[simp] theorem State.setPort_nextOrder (s : State) (k : PortNo) (p : Port) : (s.setPort k p).nextOrder = s.nextOrder := rfl
@[simp] theorem State.setPort_offers (s : State) (k : PortNo) (p : Port) : (s.setPort k p).offers = s.offers := rfl
@[simp] theorem State.setPort_staging (s : State) (k : PortNo) (p : Port) : (s.setPort k p).staging = s.staging := rfl
@[simp] theorem State.setPort_lanes (s : State) (k : PortNo) (p : Port) : (s.setPort k p).lanes = s.lanes := rfl
@[simp] theorem State.setPort_engine (s : State) (k : PortNo) (p : Port) : (s.setPort k p).engine = s.engine := rfl
@[simp] theorem State.setPort_bus (s : State) (k : PortNo) (p : Port) : (s.setPort k p).bus = s.bus := rfl
@[simp] theorem State.setPort_counters (s : State) (k : PortNo) (p : Port) : (s.setPort k p).counters = s.counters := rfl
@[simp] theorem State.setPort_map (s : State) (k : PortNo) (p : Port) (j : PortNo) :
    (s.setPort k p).map j = s.map j := rfl
@[simp] theorem State.setPort_channel (s : State) (k : PortNo) (p : Port) (j : ChannelNo) :
    (s.setPort k p).channel j = s.channel j := rfl
@[simp] theorem State.setPort_lane (s : State) (k : PortNo) (p : Port) (j : LaneNo) :
    (s.setPort k p).lane j = s.lane j := rfl
@[simp] theorem State.setPort_stage (s : State) (k : PortNo) (p : Port) (j : LaneNo) :
    (s.setPort k p).stage j = s.stage j := rfl
@[simp] theorem State.setPort_inputOf (s : State) (k : PortNo) (p : Port) (j : PortNo) :
    (s.setPort k p).inputOf j = s.inputOf j := rfl
@[simp] theorem State.setPort_waitingOf (s : State) (k : PortNo) (p : Port) (j : PortNo) :
    (s.setPort k p).waitingOf j = s.waitingOf j := rfl

/-! ### setMap -/

@[simp] theorem State.setMap_map_self (s : State) (k : PortNo) (m : AddressMap) : (s.setMap k m).map k = m := by
  simp [State.setMap, State.map]
theorem State.setMap_map_of_ne (s : State) {i j : PortNo} (m : AddressMap) (h : i ≠ j) :
    (s.setMap i m).map j = s.map j := by
  have : (i : Nat) ≠ j := fun e => h (Fin.ext e)
  simp [State.setMap, State.map, this]
@[simp] theorem State.setMap_setMap (s : State) (k : PortNo) (m m' : AddressMap) : (s.setMap k m).setMap k m' = s.setMap k m' := by
  simp [State.setMap]
@[simp] theorem State.setMap_map (s : State) (k : PortNo) : s.setMap k (s.map k) = s := by
  simp [State.setMap, State.map]
theorem State.bump_setMap (s : State) (name : Counter) (k : PortNo) (m : AddressMap) :
    (s.bump name).setMap k m = (s.setMap k m).bump name := rfl
@[simp] theorem State.setMap_pending (s : State) (k : PortNo) (m : AddressMap) : (s.setMap k m).pending = s.pending := rfl
@[simp] theorem State.setMap_count (s : State) (k : PortNo) (m : AddressMap) : (s.setMap k m).count = s.count := rfl
@[simp] theorem State.setMap_timebase (s : State) (k : PortNo) (m : AddressMap) : (s.setMap k m).timebase = s.timebase := rfl
@[simp] theorem State.setMap_discipline (s : State) (k : PortNo) (m : AddressMap) : (s.setMap k m).discipline = s.discipline := rfl
@[simp] theorem State.setMap_ports (s : State) (k : PortNo) (m : AddressMap) : (s.setMap k m).ports = s.ports := rfl
@[simp] theorem State.setMap_patterns (s : State) (k : PortNo) (m : AddressMap) : (s.setMap k m).patterns = s.patterns := rfl
@[simp] theorem State.setMap_channels (s : State) (k : PortNo) (m : AddressMap) : (s.setMap k m).channels = s.channels := rfl
@[simp] theorem State.setMap_waiting (s : State) (k : PortNo) (m : AddressMap) : (s.setMap k m).waiting = s.waiting := rfl
@[simp] theorem State.setMap_input (s : State) (k : PortNo) (m : AddressMap) : (s.setMap k m).input = s.input := rfl
@[simp] theorem State.setMap_entries (s : State) (k : PortNo) (m : AddressMap) : (s.setMap k m).entries = s.entries := rfl
@[simp] theorem State.setMap_nextOrder (s : State) (k : PortNo) (m : AddressMap) : (s.setMap k m).nextOrder = s.nextOrder := rfl
@[simp] theorem State.setMap_offers (s : State) (k : PortNo) (m : AddressMap) : (s.setMap k m).offers = s.offers := rfl
@[simp] theorem State.setMap_staging (s : State) (k : PortNo) (m : AddressMap) : (s.setMap k m).staging = s.staging := rfl
@[simp] theorem State.setMap_lanes (s : State) (k : PortNo) (m : AddressMap) : (s.setMap k m).lanes = s.lanes := rfl
@[simp] theorem State.setMap_engine (s : State) (k : PortNo) (m : AddressMap) : (s.setMap k m).engine = s.engine := rfl
@[simp] theorem State.setMap_bus (s : State) (k : PortNo) (m : AddressMap) : (s.setMap k m).bus = s.bus := rfl
@[simp] theorem State.setMap_counters (s : State) (k : PortNo) (m : AddressMap) : (s.setMap k m).counters = s.counters := rfl
@[simp] theorem State.setMap_port (s : State) (k : PortNo) (m : AddressMap) (j : PortNo) :
    (s.setMap k m).port j = s.port j := rfl
@[simp] theorem State.setMap_channel (s : State) (k : PortNo) (m : AddressMap) (j : ChannelNo) :
    (s.setMap k m).channel j = s.channel j := rfl
@[simp] theorem State.setMap_lane (s : State) (k : PortNo) (m : AddressMap) (j : LaneNo) :
    (s.setMap k m).lane j = s.lane j := rfl
@[simp] theorem State.setMap_stage (s : State) (k : PortNo) (m : AddressMap) (j : LaneNo) :
    (s.setMap k m).stage j = s.stage j := rfl
@[simp] theorem State.setMap_inputOf (s : State) (k : PortNo) (m : AddressMap) (j : PortNo) :
    (s.setMap k m).inputOf j = s.inputOf j := rfl
@[simp] theorem State.setMap_waitingOf (s : State) (k : PortNo) (m : AddressMap) (j : PortNo) :
    (s.setMap k m).waitingOf j = s.waitingOf j := rfl

/-! ### setChannel -/

@[simp] theorem State.setChannel_channel_self (s : State) (c : ChannelNo) (r : Channel) : (s.setChannel c r).channel c = r := by
  simp [State.setChannel, State.channel]
theorem State.setChannel_channel_of_ne (s : State) {i j : ChannelNo} (r : Channel) (h : i ≠ j) :
    (s.setChannel i r).channel j = s.channel j := by
  have : (i : Nat) ≠ j := fun e => h (Fin.ext e)
  simp [State.setChannel, State.channel, this]
@[simp] theorem State.setChannel_setChannel (s : State) (c : ChannelNo) (r r' : Channel) : (s.setChannel c r).setChannel c r' = s.setChannel c r' := by
  simp [State.setChannel]
@[simp] theorem State.setChannel_channel (s : State) (c : ChannelNo) : s.setChannel c (s.channel c) = s := by
  simp [State.setChannel, State.channel]
theorem State.bump_setChannel (s : State) (name : Counter) (c : ChannelNo) (r : Channel) :
    (s.bump name).setChannel c r = (s.setChannel c r).bump name := rfl
@[simp] theorem State.setChannel_pending (s : State) (c : ChannelNo) (r : Channel) : (s.setChannel c r).pending = s.pending := rfl
@[simp] theorem State.setChannel_count (s : State) (c : ChannelNo) (r : Channel) : (s.setChannel c r).count = s.count := rfl
@[simp] theorem State.setChannel_timebase (s : State) (c : ChannelNo) (r : Channel) : (s.setChannel c r).timebase = s.timebase := rfl
@[simp] theorem State.setChannel_discipline (s : State) (c : ChannelNo) (r : Channel) : (s.setChannel c r).discipline = s.discipline := rfl
@[simp] theorem State.setChannel_ports (s : State) (c : ChannelNo) (r : Channel) : (s.setChannel c r).ports = s.ports := rfl
@[simp] theorem State.setChannel_maps (s : State) (c : ChannelNo) (r : Channel) : (s.setChannel c r).maps = s.maps := rfl
@[simp] theorem State.setChannel_patterns (s : State) (c : ChannelNo) (r : Channel) : (s.setChannel c r).patterns = s.patterns := rfl
@[simp] theorem State.setChannel_waiting (s : State) (c : ChannelNo) (r : Channel) : (s.setChannel c r).waiting = s.waiting := rfl
@[simp] theorem State.setChannel_input (s : State) (c : ChannelNo) (r : Channel) : (s.setChannel c r).input = s.input := rfl
@[simp] theorem State.setChannel_entries (s : State) (c : ChannelNo) (r : Channel) : (s.setChannel c r).entries = s.entries := rfl
@[simp] theorem State.setChannel_nextOrder (s : State) (c : ChannelNo) (r : Channel) : (s.setChannel c r).nextOrder = s.nextOrder := rfl
@[simp] theorem State.setChannel_offers (s : State) (c : ChannelNo) (r : Channel) : (s.setChannel c r).offers = s.offers := rfl
@[simp] theorem State.setChannel_staging (s : State) (c : ChannelNo) (r : Channel) : (s.setChannel c r).staging = s.staging := rfl
@[simp] theorem State.setChannel_lanes (s : State) (c : ChannelNo) (r : Channel) : (s.setChannel c r).lanes = s.lanes := rfl
@[simp] theorem State.setChannel_engine (s : State) (c : ChannelNo) (r : Channel) : (s.setChannel c r).engine = s.engine := rfl
@[simp] theorem State.setChannel_bus (s : State) (c : ChannelNo) (r : Channel) : (s.setChannel c r).bus = s.bus := rfl
@[simp] theorem State.setChannel_counters (s : State) (c : ChannelNo) (r : Channel) : (s.setChannel c r).counters = s.counters := rfl
@[simp] theorem State.setChannel_port (s : State) (c : ChannelNo) (r : Channel) (j : PortNo) :
    (s.setChannel c r).port j = s.port j := rfl
@[simp] theorem State.setChannel_map (s : State) (c : ChannelNo) (r : Channel) (j : PortNo) :
    (s.setChannel c r).map j = s.map j := rfl
@[simp] theorem State.setChannel_lane (s : State) (c : ChannelNo) (r : Channel) (j : LaneNo) :
    (s.setChannel c r).lane j = s.lane j := rfl
@[simp] theorem State.setChannel_stage (s : State) (c : ChannelNo) (r : Channel) (j : LaneNo) :
    (s.setChannel c r).stage j = s.stage j := rfl
@[simp] theorem State.setChannel_inputOf (s : State) (c : ChannelNo) (r : Channel) (j : PortNo) :
    (s.setChannel c r).inputOf j = s.inputOf j := rfl
@[simp] theorem State.setChannel_waitingOf (s : State) (c : ChannelNo) (r : Channel) (j : PortNo) :
    (s.setChannel c r).waitingOf j = s.waitingOf j := rfl

/-! ### setLane -/

@[simp] theorem State.setLane_lane_self (s : State) (l : LaneNo) (r : Lane) : (s.setLane l r).lane l = r := by
  simp [State.setLane, State.lane]
theorem State.setLane_lane_of_ne (s : State) {i j : LaneNo} (r : Lane) (h : i ≠ j) :
    (s.setLane i r).lane j = s.lane j := by
  have : (i : Nat) ≠ j := fun e => h (Fin.ext e)
  simp [State.setLane, State.lane, this]
@[simp] theorem State.setLane_setLane (s : State) (l : LaneNo) (r r' : Lane) : (s.setLane l r).setLane l r' = s.setLane l r' := by
  simp [State.setLane]
@[simp] theorem State.setLane_lane (s : State) (l : LaneNo) : s.setLane l (s.lane l) = s := by
  simp [State.setLane, State.lane]
theorem State.bump_setLane (s : State) (name : Counter) (l : LaneNo) (r : Lane) :
    (s.bump name).setLane l r = (s.setLane l r).bump name := rfl
@[simp] theorem State.setLane_pending (s : State) (l : LaneNo) (r : Lane) : (s.setLane l r).pending = s.pending := rfl
@[simp] theorem State.setLane_count (s : State) (l : LaneNo) (r : Lane) : (s.setLane l r).count = s.count := rfl
@[simp] theorem State.setLane_timebase (s : State) (l : LaneNo) (r : Lane) : (s.setLane l r).timebase = s.timebase := rfl
@[simp] theorem State.setLane_discipline (s : State) (l : LaneNo) (r : Lane) : (s.setLane l r).discipline = s.discipline := rfl
@[simp] theorem State.setLane_ports (s : State) (l : LaneNo) (r : Lane) : (s.setLane l r).ports = s.ports := rfl
@[simp] theorem State.setLane_maps (s : State) (l : LaneNo) (r : Lane) : (s.setLane l r).maps = s.maps := rfl
@[simp] theorem State.setLane_patterns (s : State) (l : LaneNo) (r : Lane) : (s.setLane l r).patterns = s.patterns := rfl
@[simp] theorem State.setLane_channels (s : State) (l : LaneNo) (r : Lane) : (s.setLane l r).channels = s.channels := rfl
@[simp] theorem State.setLane_waiting (s : State) (l : LaneNo) (r : Lane) : (s.setLane l r).waiting = s.waiting := rfl
@[simp] theorem State.setLane_input (s : State) (l : LaneNo) (r : Lane) : (s.setLane l r).input = s.input := rfl
@[simp] theorem State.setLane_entries (s : State) (l : LaneNo) (r : Lane) : (s.setLane l r).entries = s.entries := rfl
@[simp] theorem State.setLane_nextOrder (s : State) (l : LaneNo) (r : Lane) : (s.setLane l r).nextOrder = s.nextOrder := rfl
@[simp] theorem State.setLane_offers (s : State) (l : LaneNo) (r : Lane) : (s.setLane l r).offers = s.offers := rfl
@[simp] theorem State.setLane_staging (s : State) (l : LaneNo) (r : Lane) : (s.setLane l r).staging = s.staging := rfl
@[simp] theorem State.setLane_engine (s : State) (l : LaneNo) (r : Lane) : (s.setLane l r).engine = s.engine := rfl
@[simp] theorem State.setLane_bus (s : State) (l : LaneNo) (r : Lane) : (s.setLane l r).bus = s.bus := rfl
@[simp] theorem State.setLane_counters (s : State) (l : LaneNo) (r : Lane) : (s.setLane l r).counters = s.counters := rfl
@[simp] theorem State.setLane_port (s : State) (l : LaneNo) (r : Lane) (j : PortNo) :
    (s.setLane l r).port j = s.port j := rfl
@[simp] theorem State.setLane_map (s : State) (l : LaneNo) (r : Lane) (j : PortNo) :
    (s.setLane l r).map j = s.map j := rfl
@[simp] theorem State.setLane_channel (s : State) (l : LaneNo) (r : Lane) (j : ChannelNo) :
    (s.setLane l r).channel j = s.channel j := rfl
@[simp] theorem State.setLane_stage (s : State) (l : LaneNo) (r : Lane) (j : LaneNo) :
    (s.setLane l r).stage j = s.stage j := rfl
@[simp] theorem State.setLane_inputOf (s : State) (l : LaneNo) (r : Lane) (j : PortNo) :
    (s.setLane l r).inputOf j = s.inputOf j := rfl
@[simp] theorem State.setLane_waitingOf (s : State) (l : LaneNo) (r : Lane) (j : PortNo) :
    (s.setLane l r).waitingOf j = s.waitingOf j := rfl

/-! ### setStage -/

@[simp] theorem State.setStage_stage_self (s : State) (l : LaneNo) (r : StagingLane) : (s.setStage l r).stage l = r := by
  simp [State.setStage, State.stage]
theorem State.setStage_stage_of_ne (s : State) {i j : LaneNo} (r : StagingLane) (h : i ≠ j) :
    (s.setStage i r).stage j = s.stage j := by
  have : (i : Nat) ≠ j := fun e => h (Fin.ext e)
  simp [State.setStage, State.stage, this]
@[simp] theorem State.setStage_setStage (s : State) (l : LaneNo) (r r' : StagingLane) : (s.setStage l r).setStage l r' = s.setStage l r' := by
  simp [State.setStage]
@[simp] theorem State.setStage_stage (s : State) (l : LaneNo) : s.setStage l (s.stage l) = s := by
  simp [State.setStage, State.stage]
theorem State.bump_setStage (s : State) (name : Counter) (l : LaneNo) (r : StagingLane) :
    (s.bump name).setStage l r = (s.setStage l r).bump name := rfl
@[simp] theorem State.setStage_pending (s : State) (l : LaneNo) (r : StagingLane) : (s.setStage l r).pending = s.pending := rfl
@[simp] theorem State.setStage_count (s : State) (l : LaneNo) (r : StagingLane) : (s.setStage l r).count = s.count := rfl
@[simp] theorem State.setStage_timebase (s : State) (l : LaneNo) (r : StagingLane) : (s.setStage l r).timebase = s.timebase := rfl
@[simp] theorem State.setStage_discipline (s : State) (l : LaneNo) (r : StagingLane) : (s.setStage l r).discipline = s.discipline := rfl
@[simp] theorem State.setStage_ports (s : State) (l : LaneNo) (r : StagingLane) : (s.setStage l r).ports = s.ports := rfl
@[simp] theorem State.setStage_maps (s : State) (l : LaneNo) (r : StagingLane) : (s.setStage l r).maps = s.maps := rfl
@[simp] theorem State.setStage_patterns (s : State) (l : LaneNo) (r : StagingLane) : (s.setStage l r).patterns = s.patterns := rfl
@[simp] theorem State.setStage_channels (s : State) (l : LaneNo) (r : StagingLane) : (s.setStage l r).channels = s.channels := rfl
@[simp] theorem State.setStage_waiting (s : State) (l : LaneNo) (r : StagingLane) : (s.setStage l r).waiting = s.waiting := rfl
@[simp] theorem State.setStage_input (s : State) (l : LaneNo) (r : StagingLane) : (s.setStage l r).input = s.input := rfl
@[simp] theorem State.setStage_entries (s : State) (l : LaneNo) (r : StagingLane) : (s.setStage l r).entries = s.entries := rfl
@[simp] theorem State.setStage_nextOrder (s : State) (l : LaneNo) (r : StagingLane) : (s.setStage l r).nextOrder = s.nextOrder := rfl
@[simp] theorem State.setStage_offers (s : State) (l : LaneNo) (r : StagingLane) : (s.setStage l r).offers = s.offers := rfl
@[simp] theorem State.setStage_lanes (s : State) (l : LaneNo) (r : StagingLane) : (s.setStage l r).lanes = s.lanes := rfl
@[simp] theorem State.setStage_engine (s : State) (l : LaneNo) (r : StagingLane) : (s.setStage l r).engine = s.engine := rfl
@[simp] theorem State.setStage_bus (s : State) (l : LaneNo) (r : StagingLane) : (s.setStage l r).bus = s.bus := rfl
@[simp] theorem State.setStage_counters (s : State) (l : LaneNo) (r : StagingLane) : (s.setStage l r).counters = s.counters := rfl
@[simp] theorem State.setStage_port (s : State) (l : LaneNo) (r : StagingLane) (j : PortNo) :
    (s.setStage l r).port j = s.port j := rfl
@[simp] theorem State.setStage_map (s : State) (l : LaneNo) (r : StagingLane) (j : PortNo) :
    (s.setStage l r).map j = s.map j := rfl
@[simp] theorem State.setStage_channel (s : State) (l : LaneNo) (r : StagingLane) (j : ChannelNo) :
    (s.setStage l r).channel j = s.channel j := rfl
@[simp] theorem State.setStage_lane (s : State) (l : LaneNo) (r : StagingLane) (j : LaneNo) :
    (s.setStage l r).lane j = s.lane j := rfl
@[simp] theorem State.setStage_inputOf (s : State) (l : LaneNo) (r : StagingLane) (j : PortNo) :
    (s.setStage l r).inputOf j = s.inputOf j := rfl
@[simp] theorem State.setStage_waitingOf (s : State) (l : LaneNo) (r : StagingLane) (j : PortNo) :
    (s.setStage l r).waitingOf j = s.waitingOf j := rfl

/-! ### setInput -/

@[simp] theorem State.setInput_inputOf_self (s : State) (k : PortNo) (f : Option Classified) : (s.setInput k f).inputOf k = f := by
  simp [State.setInput, State.inputOf]
theorem State.setInput_inputOf_of_ne (s : State) {i j : PortNo} (f : Option Classified) (h : i ≠ j) :
    (s.setInput i f).inputOf j = s.inputOf j := by
  have : (i : Nat) ≠ j := fun e => h (Fin.ext e)
  simp [State.setInput, State.inputOf, this]
@[simp] theorem State.setInput_setInput (s : State) (k : PortNo) (f f' : Option Classified) : (s.setInput k f).setInput k f' = s.setInput k f' := by
  simp [State.setInput]
@[simp] theorem State.setInput_inputOf (s : State) (k : PortNo) : s.setInput k (s.inputOf k) = s := by
  simp [State.setInput, State.inputOf]
theorem State.bump_setInput (s : State) (name : Counter) (k : PortNo) (f : Option Classified) :
    (s.bump name).setInput k f = (s.setInput k f).bump name := rfl
@[simp] theorem State.setInput_pending (s : State) (k : PortNo) (f : Option Classified) : (s.setInput k f).pending = s.pending := rfl
@[simp] theorem State.setInput_count (s : State) (k : PortNo) (f : Option Classified) : (s.setInput k f).count = s.count := rfl
@[simp] theorem State.setInput_timebase (s : State) (k : PortNo) (f : Option Classified) : (s.setInput k f).timebase = s.timebase := rfl
@[simp] theorem State.setInput_discipline (s : State) (k : PortNo) (f : Option Classified) : (s.setInput k f).discipline = s.discipline := rfl
@[simp] theorem State.setInput_ports (s : State) (k : PortNo) (f : Option Classified) : (s.setInput k f).ports = s.ports := rfl
@[simp] theorem State.setInput_maps (s : State) (k : PortNo) (f : Option Classified) : (s.setInput k f).maps = s.maps := rfl
@[simp] theorem State.setInput_patterns (s : State) (k : PortNo) (f : Option Classified) : (s.setInput k f).patterns = s.patterns := rfl
@[simp] theorem State.setInput_channels (s : State) (k : PortNo) (f : Option Classified) : (s.setInput k f).channels = s.channels := rfl
@[simp] theorem State.setInput_waiting (s : State) (k : PortNo) (f : Option Classified) : (s.setInput k f).waiting = s.waiting := rfl
@[simp] theorem State.setInput_entries (s : State) (k : PortNo) (f : Option Classified) : (s.setInput k f).entries = s.entries := rfl
@[simp] theorem State.setInput_nextOrder (s : State) (k : PortNo) (f : Option Classified) : (s.setInput k f).nextOrder = s.nextOrder := rfl
@[simp] theorem State.setInput_offers (s : State) (k : PortNo) (f : Option Classified) : (s.setInput k f).offers = s.offers := rfl
@[simp] theorem State.setInput_staging (s : State) (k : PortNo) (f : Option Classified) : (s.setInput k f).staging = s.staging := rfl
@[simp] theorem State.setInput_lanes (s : State) (k : PortNo) (f : Option Classified) : (s.setInput k f).lanes = s.lanes := rfl
@[simp] theorem State.setInput_engine (s : State) (k : PortNo) (f : Option Classified) : (s.setInput k f).engine = s.engine := rfl
@[simp] theorem State.setInput_bus (s : State) (k : PortNo) (f : Option Classified) : (s.setInput k f).bus = s.bus := rfl
@[simp] theorem State.setInput_counters (s : State) (k : PortNo) (f : Option Classified) : (s.setInput k f).counters = s.counters := rfl
@[simp] theorem State.setInput_port (s : State) (k : PortNo) (f : Option Classified) (j : PortNo) :
    (s.setInput k f).port j = s.port j := rfl
@[simp] theorem State.setInput_map (s : State) (k : PortNo) (f : Option Classified) (j : PortNo) :
    (s.setInput k f).map j = s.map j := rfl
@[simp] theorem State.setInput_channel (s : State) (k : PortNo) (f : Option Classified) (j : ChannelNo) :
    (s.setInput k f).channel j = s.channel j := rfl
@[simp] theorem State.setInput_lane (s : State) (k : PortNo) (f : Option Classified) (j : LaneNo) :
    (s.setInput k f).lane j = s.lane j := rfl
@[simp] theorem State.setInput_stage (s : State) (k : PortNo) (f : Option Classified) (j : LaneNo) :
    (s.setInput k f).stage j = s.stage j := rfl
@[simp] theorem State.setInput_waitingOf (s : State) (k : PortNo) (f : Option Classified) (j : PortNo) :
    (s.setInput k f).waitingOf j = s.waitingOf j := rfl

/-! ### setWaiting -/

@[simp] theorem State.setWaiting_waitingOf_self (s : State) (k : PortNo) (f : Option Classified) : (s.setWaiting k f).waitingOf k = f := by
  simp [State.setWaiting, State.waitingOf]
theorem State.setWaiting_waitingOf_of_ne (s : State) {i j : PortNo} (f : Option Classified) (h : i ≠ j) :
    (s.setWaiting i f).waitingOf j = s.waitingOf j := by
  have : (i : Nat) ≠ j := fun e => h (Fin.ext e)
  simp [State.setWaiting, State.waitingOf, this]
@[simp] theorem State.setWaiting_setWaiting (s : State) (k : PortNo) (f f' : Option Classified) : (s.setWaiting k f).setWaiting k f' = s.setWaiting k f' := by
  simp [State.setWaiting]
@[simp] theorem State.setWaiting_waitingOf (s : State) (k : PortNo) : s.setWaiting k (s.waitingOf k) = s := by
  simp [State.setWaiting, State.waitingOf]
theorem State.bump_setWaiting (s : State) (name : Counter) (k : PortNo) (f : Option Classified) :
    (s.bump name).setWaiting k f = (s.setWaiting k f).bump name := rfl
@[simp] theorem State.setWaiting_pending (s : State) (k : PortNo) (f : Option Classified) : (s.setWaiting k f).pending = s.pending := rfl
@[simp] theorem State.setWaiting_count (s : State) (k : PortNo) (f : Option Classified) : (s.setWaiting k f).count = s.count := rfl
@[simp] theorem State.setWaiting_timebase (s : State) (k : PortNo) (f : Option Classified) : (s.setWaiting k f).timebase = s.timebase := rfl
@[simp] theorem State.setWaiting_discipline (s : State) (k : PortNo) (f : Option Classified) : (s.setWaiting k f).discipline = s.discipline := rfl
@[simp] theorem State.setWaiting_ports (s : State) (k : PortNo) (f : Option Classified) : (s.setWaiting k f).ports = s.ports := rfl
@[simp] theorem State.setWaiting_maps (s : State) (k : PortNo) (f : Option Classified) : (s.setWaiting k f).maps = s.maps := rfl
@[simp] theorem State.setWaiting_patterns (s : State) (k : PortNo) (f : Option Classified) : (s.setWaiting k f).patterns = s.patterns := rfl
@[simp] theorem State.setWaiting_channels (s : State) (k : PortNo) (f : Option Classified) : (s.setWaiting k f).channels = s.channels := rfl
@[simp] theorem State.setWaiting_input (s : State) (k : PortNo) (f : Option Classified) : (s.setWaiting k f).input = s.input := rfl
@[simp] theorem State.setWaiting_entries (s : State) (k : PortNo) (f : Option Classified) : (s.setWaiting k f).entries = s.entries := rfl
@[simp] theorem State.setWaiting_nextOrder (s : State) (k : PortNo) (f : Option Classified) : (s.setWaiting k f).nextOrder = s.nextOrder := rfl
@[simp] theorem State.setWaiting_offers (s : State) (k : PortNo) (f : Option Classified) : (s.setWaiting k f).offers = s.offers := rfl
@[simp] theorem State.setWaiting_staging (s : State) (k : PortNo) (f : Option Classified) : (s.setWaiting k f).staging = s.staging := rfl
@[simp] theorem State.setWaiting_lanes (s : State) (k : PortNo) (f : Option Classified) : (s.setWaiting k f).lanes = s.lanes := rfl
@[simp] theorem State.setWaiting_engine (s : State) (k : PortNo) (f : Option Classified) : (s.setWaiting k f).engine = s.engine := rfl
@[simp] theorem State.setWaiting_bus (s : State) (k : PortNo) (f : Option Classified) : (s.setWaiting k f).bus = s.bus := rfl
@[simp] theorem State.setWaiting_counters (s : State) (k : PortNo) (f : Option Classified) : (s.setWaiting k f).counters = s.counters := rfl
@[simp] theorem State.setWaiting_port (s : State) (k : PortNo) (f : Option Classified) (j : PortNo) :
    (s.setWaiting k f).port j = s.port j := rfl
@[simp] theorem State.setWaiting_map (s : State) (k : PortNo) (f : Option Classified) (j : PortNo) :
    (s.setWaiting k f).map j = s.map j := rfl
@[simp] theorem State.setWaiting_channel (s : State) (k : PortNo) (f : Option Classified) (j : ChannelNo) :
    (s.setWaiting k f).channel j = s.channel j := rfl
@[simp] theorem State.setWaiting_lane (s : State) (k : PortNo) (f : Option Classified) (j : LaneNo) :
    (s.setWaiting k f).lane j = s.lane j := rfl
@[simp] theorem State.setWaiting_stage (s : State) (k : PortNo) (f : Option Classified) (j : LaneNo) :
    (s.setWaiting k f).stage j = s.stage j := rfl
@[simp] theorem State.setWaiting_inputOf (s : State) (k : PortNo) (f : Option Classified) (j : PortNo) :
    (s.setWaiting k f).inputOf j = s.inputOf j := rfl

/-! ### bumpBy -/

@[simp] theorem State.bumpBy_pending (s : State) (name : Counter) (n : Nat) : (s.bumpBy name n).pending = s.pending := rfl
@[simp] theorem State.bumpBy_count (s : State) (name : Counter) (n : Nat) : (s.bumpBy name n).count = s.count := rfl
@[simp] theorem State.bumpBy_timebase (s : State) (name : Counter) (n : Nat) : (s.bumpBy name n).timebase = s.timebase := rfl
@[simp] theorem State.bumpBy_discipline (s : State) (name : Counter) (n : Nat) : (s.bumpBy name n).discipline = s.discipline := rfl
@[simp] theorem State.bumpBy_ports (s : State) (name : Counter) (n : Nat) : (s.bumpBy name n).ports = s.ports := rfl
@[simp] theorem State.bumpBy_maps (s : State) (name : Counter) (n : Nat) : (s.bumpBy name n).maps = s.maps := rfl
@[simp] theorem State.bumpBy_patterns (s : State) (name : Counter) (n : Nat) : (s.bumpBy name n).patterns = s.patterns := rfl
@[simp] theorem State.bumpBy_channels (s : State) (name : Counter) (n : Nat) : (s.bumpBy name n).channels = s.channels := rfl
@[simp] theorem State.bumpBy_waiting (s : State) (name : Counter) (n : Nat) : (s.bumpBy name n).waiting = s.waiting := rfl
@[simp] theorem State.bumpBy_input (s : State) (name : Counter) (n : Nat) : (s.bumpBy name n).input = s.input := rfl
@[simp] theorem State.bumpBy_entries (s : State) (name : Counter) (n : Nat) : (s.bumpBy name n).entries = s.entries := rfl
@[simp] theorem State.bumpBy_nextOrder (s : State) (name : Counter) (n : Nat) : (s.bumpBy name n).nextOrder = s.nextOrder := rfl
@[simp] theorem State.bumpBy_offers (s : State) (name : Counter) (n : Nat) : (s.bumpBy name n).offers = s.offers := rfl
@[simp] theorem State.bumpBy_staging (s : State) (name : Counter) (n : Nat) : (s.bumpBy name n).staging = s.staging := rfl
@[simp] theorem State.bumpBy_lanes (s : State) (name : Counter) (n : Nat) : (s.bumpBy name n).lanes = s.lanes := rfl
@[simp] theorem State.bumpBy_engine (s : State) (name : Counter) (n : Nat) : (s.bumpBy name n).engine = s.engine := rfl
@[simp] theorem State.bumpBy_bus (s : State) (name : Counter) (n : Nat) : (s.bumpBy name n).bus = s.bus := rfl
@[simp] theorem State.bumpBy_port (s : State) (name : Counter) (n : Nat) (j : PortNo) :
    (s.bumpBy name n).port j = s.port j := by
  simp [State.port]
@[simp] theorem State.bumpBy_map (s : State) (name : Counter) (n : Nat) (j : PortNo) :
    (s.bumpBy name n).map j = s.map j := by
  simp [State.map]
@[simp] theorem State.bumpBy_channel (s : State) (name : Counter) (n : Nat) (j : ChannelNo) :
    (s.bumpBy name n).channel j = s.channel j := by
  simp [State.channel]
@[simp] theorem State.bumpBy_lane (s : State) (name : Counter) (n : Nat) (j : LaneNo) :
    (s.bumpBy name n).lane j = s.lane j := by
  simp [State.lane]
@[simp] theorem State.bumpBy_stage (s : State) (name : Counter) (n : Nat) (j : LaneNo) :
    (s.bumpBy name n).stage j = s.stage j := by
  simp [State.stage]
@[simp] theorem State.bumpBy_inputOf (s : State) (name : Counter) (n : Nat) (j : PortNo) :
    (s.bumpBy name n).inputOf j = s.inputOf j := by
  simp [State.inputOf]
@[simp] theorem State.bumpBy_waitingOf (s : State) (name : Counter) (n : Nat) (j : PortNo) :
    (s.bumpBy name n).waitingOf j = s.waitingOf j := by
  simp [State.waitingOf]

/-! ### bump -/

@[simp] theorem State.bump_pending (s : State) (name : Counter) : (s.bump name).pending = s.pending := rfl
@[simp] theorem State.bump_count (s : State) (name : Counter) : (s.bump name).count = s.count := rfl
@[simp] theorem State.bump_timebase (s : State) (name : Counter) : (s.bump name).timebase = s.timebase := rfl
@[simp] theorem State.bump_discipline (s : State) (name : Counter) : (s.bump name).discipline = s.discipline := rfl
@[simp] theorem State.bump_ports (s : State) (name : Counter) : (s.bump name).ports = s.ports := rfl
@[simp] theorem State.bump_maps (s : State) (name : Counter) : (s.bump name).maps = s.maps := rfl
@[simp] theorem State.bump_patterns (s : State) (name : Counter) : (s.bump name).patterns = s.patterns := rfl
@[simp] theorem State.bump_channels (s : State) (name : Counter) : (s.bump name).channels = s.channels := rfl
@[simp] theorem State.bump_waiting (s : State) (name : Counter) : (s.bump name).waiting = s.waiting := rfl
@[simp] theorem State.bump_input (s : State) (name : Counter) : (s.bump name).input = s.input := rfl
@[simp] theorem State.bump_entries (s : State) (name : Counter) : (s.bump name).entries = s.entries := rfl
@[simp] theorem State.bump_nextOrder (s : State) (name : Counter) : (s.bump name).nextOrder = s.nextOrder := rfl
@[simp] theorem State.bump_offers (s : State) (name : Counter) : (s.bump name).offers = s.offers := rfl
@[simp] theorem State.bump_staging (s : State) (name : Counter) : (s.bump name).staging = s.staging := rfl
@[simp] theorem State.bump_lanes (s : State) (name : Counter) : (s.bump name).lanes = s.lanes := rfl
@[simp] theorem State.bump_engine (s : State) (name : Counter) : (s.bump name).engine = s.engine := rfl
@[simp] theorem State.bump_bus (s : State) (name : Counter) : (s.bump name).bus = s.bus := rfl
@[simp] theorem State.bump_port (s : State) (name : Counter) (j : PortNo) :
    (s.bump name).port j = s.port j := by
  simp [State.port]
@[simp] theorem State.bump_map (s : State) (name : Counter) (j : PortNo) :
    (s.bump name).map j = s.map j := by
  simp [State.map]
@[simp] theorem State.bump_channel (s : State) (name : Counter) (j : ChannelNo) :
    (s.bump name).channel j = s.channel j := by
  simp [State.channel]
@[simp] theorem State.bump_lane (s : State) (name : Counter) (j : LaneNo) :
    (s.bump name).lane j = s.lane j := by
  simp [State.lane]
@[simp] theorem State.bump_stage (s : State) (name : Counter) (j : LaneNo) :
    (s.bump name).stage j = s.stage j := by
  simp [State.stage]
@[simp] theorem State.bump_inputOf (s : State) (name : Counter) (j : PortNo) :
    (s.bump name).inputOf j = s.inputOf j := by
  simp [State.inputOf]
@[simp] theorem State.bump_waitingOf (s : State) (name : Counter) (j : PortNo) :
    (s.bump name).waitingOf j = s.waitingOf j := by
  simp [State.waitingOf]

/-! ### issueWrite -/

@[simp] theorem State.issueWrite_pending (s : State) (runs : List Run) : (s.issueWrite runs).pending = s.pending := by
  unfold State.issueWrite; split <;> rfl
@[simp] theorem State.issueWrite_count (s : State) (runs : List Run) : (s.issueWrite runs).count = s.count := by
  unfold State.issueWrite; split <;> rfl
@[simp] theorem State.issueWrite_timebase (s : State) (runs : List Run) : (s.issueWrite runs).timebase = s.timebase := by
  unfold State.issueWrite; split <;> rfl
@[simp] theorem State.issueWrite_discipline (s : State) (runs : List Run) : (s.issueWrite runs).discipline = s.discipline := by
  unfold State.issueWrite; split <;> rfl
@[simp] theorem State.issueWrite_ports (s : State) (runs : List Run) : (s.issueWrite runs).ports = s.ports := by
  unfold State.issueWrite; split <;> rfl
@[simp] theorem State.issueWrite_maps (s : State) (runs : List Run) : (s.issueWrite runs).maps = s.maps := by
  unfold State.issueWrite; split <;> rfl
@[simp] theorem State.issueWrite_patterns (s : State) (runs : List Run) : (s.issueWrite runs).patterns = s.patterns := by
  unfold State.issueWrite; split <;> rfl
@[simp] theorem State.issueWrite_channels (s : State) (runs : List Run) : (s.issueWrite runs).channels = s.channels := by
  unfold State.issueWrite; split <;> rfl
@[simp] theorem State.issueWrite_waiting (s : State) (runs : List Run) : (s.issueWrite runs).waiting = s.waiting := by
  unfold State.issueWrite; split <;> rfl
@[simp] theorem State.issueWrite_input (s : State) (runs : List Run) : (s.issueWrite runs).input = s.input := by
  unfold State.issueWrite; split <;> rfl
@[simp] theorem State.issueWrite_entries (s : State) (runs : List Run) : (s.issueWrite runs).entries = s.entries := by
  unfold State.issueWrite; split <;> rfl
@[simp] theorem State.issueWrite_nextOrder (s : State) (runs : List Run) : (s.issueWrite runs).nextOrder = s.nextOrder := by
  unfold State.issueWrite; split <;> rfl
@[simp] theorem State.issueWrite_offers (s : State) (runs : List Run) : (s.issueWrite runs).offers = s.offers := by
  unfold State.issueWrite; split <;> rfl
@[simp] theorem State.issueWrite_staging (s : State) (runs : List Run) : (s.issueWrite runs).staging = s.staging := by
  unfold State.issueWrite; split <;> rfl
@[simp] theorem State.issueWrite_lanes (s : State) (runs : List Run) : (s.issueWrite runs).lanes = s.lanes := by
  unfold State.issueWrite; split <;> rfl
@[simp] theorem State.issueWrite_engine (s : State) (runs : List Run) : (s.issueWrite runs).engine = s.engine := by
  unfold State.issueWrite; split <;> rfl
@[simp] theorem State.issueWrite_counters (s : State) (runs : List Run) : (s.issueWrite runs).counters = s.counters := by
  unfold State.issueWrite; split <;> rfl
@[simp] theorem State.issueWrite_port (s : State) (runs : List Run) (j : PortNo) :
    (s.issueWrite runs).port j = s.port j := by
  simp [State.port]
@[simp] theorem State.issueWrite_map (s : State) (runs : List Run) (j : PortNo) :
    (s.issueWrite runs).map j = s.map j := by
  simp [State.map]
@[simp] theorem State.issueWrite_channel (s : State) (runs : List Run) (j : ChannelNo) :
    (s.issueWrite runs).channel j = s.channel j := by
  simp [State.channel]
@[simp] theorem State.issueWrite_lane (s : State) (runs : List Run) (j : LaneNo) :
    (s.issueWrite runs).lane j = s.lane j := by
  simp [State.lane]
@[simp] theorem State.issueWrite_stage (s : State) (runs : List Run) (j : LaneNo) :
    (s.issueWrite runs).stage j = s.stage j := by
  simp [State.stage]
@[simp] theorem State.issueWrite_inputOf (s : State) (runs : List Run) (j : PortNo) :
    (s.issueWrite runs).inputOf j = s.inputOf j := by
  simp [State.inputOf]
@[simp] theorem State.issueWrite_waitingOf (s : State) (runs : List Run) (j : PortNo) :
    (s.issueWrite runs).waitingOf j = s.waitingOf j := by
  simp [State.waitingOf]

/-! ### writeAt -/

@[simp] theorem State.writeAt_pending (s : State) (a : Address) (bs : List Byte) : (s.writeAt a bs).pending = s.pending := by
  simp [State.writeAt]
@[simp] theorem State.writeAt_count (s : State) (a : Address) (bs : List Byte) : (s.writeAt a bs).count = s.count := by
  simp [State.writeAt]
@[simp] theorem State.writeAt_timebase (s : State) (a : Address) (bs : List Byte) : (s.writeAt a bs).timebase = s.timebase := by
  simp [State.writeAt]
@[simp] theorem State.writeAt_discipline (s : State) (a : Address) (bs : List Byte) : (s.writeAt a bs).discipline = s.discipline := by
  simp [State.writeAt]
@[simp] theorem State.writeAt_ports (s : State) (a : Address) (bs : List Byte) : (s.writeAt a bs).ports = s.ports := by
  simp [State.writeAt]
@[simp] theorem State.writeAt_maps (s : State) (a : Address) (bs : List Byte) : (s.writeAt a bs).maps = s.maps := by
  simp [State.writeAt]
@[simp] theorem State.writeAt_patterns (s : State) (a : Address) (bs : List Byte) : (s.writeAt a bs).patterns = s.patterns := by
  simp [State.writeAt]
@[simp] theorem State.writeAt_channels (s : State) (a : Address) (bs : List Byte) : (s.writeAt a bs).channels = s.channels := by
  simp [State.writeAt]
@[simp] theorem State.writeAt_waiting (s : State) (a : Address) (bs : List Byte) : (s.writeAt a bs).waiting = s.waiting := by
  simp [State.writeAt]
@[simp] theorem State.writeAt_input (s : State) (a : Address) (bs : List Byte) : (s.writeAt a bs).input = s.input := by
  simp [State.writeAt]
@[simp] theorem State.writeAt_entries (s : State) (a : Address) (bs : List Byte) : (s.writeAt a bs).entries = s.entries := by
  simp [State.writeAt]
@[simp] theorem State.writeAt_nextOrder (s : State) (a : Address) (bs : List Byte) : (s.writeAt a bs).nextOrder = s.nextOrder := by
  simp [State.writeAt]
@[simp] theorem State.writeAt_offers (s : State) (a : Address) (bs : List Byte) : (s.writeAt a bs).offers = s.offers := by
  simp [State.writeAt]
@[simp] theorem State.writeAt_staging (s : State) (a : Address) (bs : List Byte) : (s.writeAt a bs).staging = s.staging := by
  simp [State.writeAt]
@[simp] theorem State.writeAt_lanes (s : State) (a : Address) (bs : List Byte) : (s.writeAt a bs).lanes = s.lanes := by
  simp [State.writeAt]
@[simp] theorem State.writeAt_engine (s : State) (a : Address) (bs : List Byte) : (s.writeAt a bs).engine = s.engine := by
  simp [State.writeAt]
@[simp] theorem State.writeAt_counters (s : State) (a : Address) (bs : List Byte) : (s.writeAt a bs).counters = s.counters := by
  simp [State.writeAt]
@[simp] theorem State.writeAt_port (s : State) (a : Address) (bs : List Byte) (j : PortNo) :
    (s.writeAt a bs).port j = s.port j := by
  simp [State.port]
@[simp] theorem State.writeAt_map (s : State) (a : Address) (bs : List Byte) (j : PortNo) :
    (s.writeAt a bs).map j = s.map j := by
  simp [State.map]
@[simp] theorem State.writeAt_channel (s : State) (a : Address) (bs : List Byte) (j : ChannelNo) :
    (s.writeAt a bs).channel j = s.channel j := by
  simp [State.channel]
@[simp] theorem State.writeAt_lane (s : State) (a : Address) (bs : List Byte) (j : LaneNo) :
    (s.writeAt a bs).lane j = s.lane j := by
  simp [State.lane]
@[simp] theorem State.writeAt_stage (s : State) (a : Address) (bs : List Byte) (j : LaneNo) :
    (s.writeAt a bs).stage j = s.stage j := by
  simp [State.stage]
@[simp] theorem State.writeAt_inputOf (s : State) (a : Address) (bs : List Byte) (j : PortNo) :
    (s.writeAt a bs).inputOf j = s.inputOf j := by
  simp [State.inputOf]
@[simp] theorem State.writeAt_waitingOf (s : State) (a : Address) (bs : List Byte) (j : PortNo) :
    (s.writeAt a bs).waitingOf j = s.waitingOf j := by
  simp [State.waitingOf]

/-! ### writeArea -/

@[simp] theorem State.writeArea_pending (s : State) (o : Nat) (bs : List Byte) : (s.writeArea o bs).pending = s.pending := by
  unfold State.writeArea; split <;> simp
@[simp] theorem State.writeArea_count (s : State) (o : Nat) (bs : List Byte) : (s.writeArea o bs).count = s.count := by
  unfold State.writeArea; split <;> simp
@[simp] theorem State.writeArea_timebase (s : State) (o : Nat) (bs : List Byte) : (s.writeArea o bs).timebase = s.timebase := by
  unfold State.writeArea; split <;> simp
@[simp] theorem State.writeArea_discipline (s : State) (o : Nat) (bs : List Byte) : (s.writeArea o bs).discipline = s.discipline := by
  unfold State.writeArea; split <;> simp
@[simp] theorem State.writeArea_ports (s : State) (o : Nat) (bs : List Byte) : (s.writeArea o bs).ports = s.ports := by
  unfold State.writeArea; split <;> simp
@[simp] theorem State.writeArea_maps (s : State) (o : Nat) (bs : List Byte) : (s.writeArea o bs).maps = s.maps := by
  unfold State.writeArea; split <;> simp
@[simp] theorem State.writeArea_patterns (s : State) (o : Nat) (bs : List Byte) : (s.writeArea o bs).patterns = s.patterns := by
  unfold State.writeArea; split <;> simp
@[simp] theorem State.writeArea_channels (s : State) (o : Nat) (bs : List Byte) : (s.writeArea o bs).channels = s.channels := by
  unfold State.writeArea; split <;> simp
@[simp] theorem State.writeArea_waiting (s : State) (o : Nat) (bs : List Byte) : (s.writeArea o bs).waiting = s.waiting := by
  unfold State.writeArea; split <;> simp
@[simp] theorem State.writeArea_input (s : State) (o : Nat) (bs : List Byte) : (s.writeArea o bs).input = s.input := by
  unfold State.writeArea; split <;> simp
@[simp] theorem State.writeArea_entries (s : State) (o : Nat) (bs : List Byte) : (s.writeArea o bs).entries = s.entries := by
  unfold State.writeArea; split <;> simp
@[simp] theorem State.writeArea_nextOrder (s : State) (o : Nat) (bs : List Byte) : (s.writeArea o bs).nextOrder = s.nextOrder := by
  unfold State.writeArea; split <;> simp
@[simp] theorem State.writeArea_offers (s : State) (o : Nat) (bs : List Byte) : (s.writeArea o bs).offers = s.offers := by
  unfold State.writeArea; split <;> simp
@[simp] theorem State.writeArea_staging (s : State) (o : Nat) (bs : List Byte) : (s.writeArea o bs).staging = s.staging := by
  unfold State.writeArea; split <;> simp
@[simp] theorem State.writeArea_lanes (s : State) (o : Nat) (bs : List Byte) : (s.writeArea o bs).lanes = s.lanes := by
  unfold State.writeArea; split <;> simp
@[simp] theorem State.writeArea_engine (s : State) (o : Nat) (bs : List Byte) : (s.writeArea o bs).engine = s.engine := by
  unfold State.writeArea; split <;> simp
@[simp] theorem State.writeArea_counters (s : State) (o : Nat) (bs : List Byte) : (s.writeArea o bs).counters = s.counters := by
  unfold State.writeArea; split <;> simp
@[simp] theorem State.writeArea_port (s : State) (o : Nat) (bs : List Byte) (j : PortNo) :
    (s.writeArea o bs).port j = s.port j := by
  simp [State.port]
@[simp] theorem State.writeArea_map (s : State) (o : Nat) (bs : List Byte) (j : PortNo) :
    (s.writeArea o bs).map j = s.map j := by
  simp [State.map]
@[simp] theorem State.writeArea_channel (s : State) (o : Nat) (bs : List Byte) (j : ChannelNo) :
    (s.writeArea o bs).channel j = s.channel j := by
  simp [State.channel]
@[simp] theorem State.writeArea_lane (s : State) (o : Nat) (bs : List Byte) (j : LaneNo) :
    (s.writeArea o bs).lane j = s.lane j := by
  simp [State.lane]
@[simp] theorem State.writeArea_stage (s : State) (o : Nat) (bs : List Byte) (j : LaneNo) :
    (s.writeArea o bs).stage j = s.stage j := by
  simp [State.stage]
@[simp] theorem State.writeArea_inputOf (s : State) (o : Nat) (bs : List Byte) (j : PortNo) :
    (s.writeArea o bs).inputOf j = s.inputOf j := by
  simp [State.inputOf]
@[simp] theorem State.writeArea_waitingOf (s : State) (o : Nat) (bs : List Byte) (j : PortNo) :
    (s.writeArea o bs).waitingOf j = s.waitingOf j := by
  simp [State.waitingOf]

/-! ### issueRead -/

@[simp] theorem State.issueRead_pending (s : State) (p : ReadPurpose) (a : Address) (n : Nat) : (s.issueRead p a n).pending = s.pending := by
  unfold State.issueRead; split <;> rfl
@[simp] theorem State.issueRead_count (s : State) (p : ReadPurpose) (a : Address) (n : Nat) : (s.issueRead p a n).count = s.count := by
  unfold State.issueRead; split <;> rfl
@[simp] theorem State.issueRead_timebase (s : State) (p : ReadPurpose) (a : Address) (n : Nat) : (s.issueRead p a n).timebase = s.timebase := by
  unfold State.issueRead; split <;> rfl
@[simp] theorem State.issueRead_discipline (s : State) (p : ReadPurpose) (a : Address) (n : Nat) : (s.issueRead p a n).discipline = s.discipline := by
  unfold State.issueRead; split <;> rfl
@[simp] theorem State.issueRead_ports (s : State) (p : ReadPurpose) (a : Address) (n : Nat) : (s.issueRead p a n).ports = s.ports := by
  unfold State.issueRead; split <;> rfl
@[simp] theorem State.issueRead_maps (s : State) (p : ReadPurpose) (a : Address) (n : Nat) : (s.issueRead p a n).maps = s.maps := by
  unfold State.issueRead; split <;> rfl
@[simp] theorem State.issueRead_patterns (s : State) (p : ReadPurpose) (a : Address) (n : Nat) : (s.issueRead p a n).patterns = s.patterns := by
  unfold State.issueRead; split <;> rfl
@[simp] theorem State.issueRead_channels (s : State) (p : ReadPurpose) (a : Address) (n : Nat) : (s.issueRead p a n).channels = s.channels := by
  unfold State.issueRead; split <;> rfl
@[simp] theorem State.issueRead_waiting (s : State) (p : ReadPurpose) (a : Address) (n : Nat) : (s.issueRead p a n).waiting = s.waiting := by
  unfold State.issueRead; split <;> rfl
@[simp] theorem State.issueRead_input (s : State) (p : ReadPurpose) (a : Address) (n : Nat) : (s.issueRead p a n).input = s.input := by
  unfold State.issueRead; split <;> rfl
@[simp] theorem State.issueRead_entries (s : State) (p : ReadPurpose) (a : Address) (n : Nat) : (s.issueRead p a n).entries = s.entries := by
  unfold State.issueRead; split <;> rfl
@[simp] theorem State.issueRead_nextOrder (s : State) (p : ReadPurpose) (a : Address) (n : Nat) : (s.issueRead p a n).nextOrder = s.nextOrder := by
  unfold State.issueRead; split <;> rfl
@[simp] theorem State.issueRead_offers (s : State) (p : ReadPurpose) (a : Address) (n : Nat) : (s.issueRead p a n).offers = s.offers := by
  unfold State.issueRead; split <;> rfl
@[simp] theorem State.issueRead_staging (s : State) (p : ReadPurpose) (a : Address) (n : Nat) : (s.issueRead p a n).staging = s.staging := by
  unfold State.issueRead; split <;> rfl
@[simp] theorem State.issueRead_lanes (s : State) (p : ReadPurpose) (a : Address) (n : Nat) : (s.issueRead p a n).lanes = s.lanes := by
  unfold State.issueRead; split <;> rfl
@[simp] theorem State.issueRead_engine (s : State) (p : ReadPurpose) (a : Address) (n : Nat) : (s.issueRead p a n).engine = s.engine := by
  unfold State.issueRead; split <;> rfl
@[simp] theorem State.issueRead_counters (s : State) (p : ReadPurpose) (a : Address) (n : Nat) : (s.issueRead p a n).counters = s.counters := by
  unfold State.issueRead; split <;> rfl
@[simp] theorem State.issueRead_port (s : State) (p : ReadPurpose) (a : Address) (n : Nat) (j : PortNo) :
    (s.issueRead p a n).port j = s.port j := by
  simp [State.port]
@[simp] theorem State.issueRead_map (s : State) (p : ReadPurpose) (a : Address) (n : Nat) (j : PortNo) :
    (s.issueRead p a n).map j = s.map j := by
  simp [State.map]
@[simp] theorem State.issueRead_channel (s : State) (p : ReadPurpose) (a : Address) (n : Nat) (j : ChannelNo) :
    (s.issueRead p a n).channel j = s.channel j := by
  simp [State.channel]
@[simp] theorem State.issueRead_lane (s : State) (p : ReadPurpose) (a : Address) (n : Nat) (j : LaneNo) :
    (s.issueRead p a n).lane j = s.lane j := by
  simp [State.lane]
@[simp] theorem State.issueRead_stage (s : State) (p : ReadPurpose) (a : Address) (n : Nat) (j : LaneNo) :
    (s.issueRead p a n).stage j = s.stage j := by
  simp [State.stage]
@[simp] theorem State.issueRead_inputOf (s : State) (p : ReadPurpose) (a : Address) (n : Nat) (j : PortNo) :
    (s.issueRead p a n).inputOf j = s.inputOf j := by
  simp [State.inputOf]
@[simp] theorem State.issueRead_waitingOf (s : State) (p : ReadPurpose) (a : Address) (n : Nat) (j : PortNo) :
    (s.issueRead p a n).waitingOf j = s.waitingOf j := by
  simp [State.waitingOf]

/-! ### setCause -/

@[simp] theorem State.setCause_pending (s : State) (b : CauseBit) : (s.setCause b).pending = s.pending := rfl
@[simp] theorem State.setCause_count (s : State) (b : CauseBit) : (s.setCause b).count = s.count := rfl
@[simp] theorem State.setCause_timebase (s : State) (b : CauseBit) : (s.setCause b).timebase = s.timebase := rfl
@[simp] theorem State.setCause_discipline (s : State) (b : CauseBit) : (s.setCause b).discipline = s.discipline := rfl
@[simp] theorem State.setCause_ports (s : State) (b : CauseBit) : (s.setCause b).ports = s.ports := rfl
@[simp] theorem State.setCause_maps (s : State) (b : CauseBit) : (s.setCause b).maps = s.maps := rfl
@[simp] theorem State.setCause_patterns (s : State) (b : CauseBit) : (s.setCause b).patterns = s.patterns := rfl
@[simp] theorem State.setCause_channels (s : State) (b : CauseBit) : (s.setCause b).channels = s.channels := rfl
@[simp] theorem State.setCause_waiting (s : State) (b : CauseBit) : (s.setCause b).waiting = s.waiting := rfl
@[simp] theorem State.setCause_input (s : State) (b : CauseBit) : (s.setCause b).input = s.input := rfl
@[simp] theorem State.setCause_entries (s : State) (b : CauseBit) : (s.setCause b).entries = s.entries := rfl
@[simp] theorem State.setCause_nextOrder (s : State) (b : CauseBit) : (s.setCause b).nextOrder = s.nextOrder := rfl
@[simp] theorem State.setCause_offers (s : State) (b : CauseBit) : (s.setCause b).offers = s.offers := rfl
@[simp] theorem State.setCause_staging (s : State) (b : CauseBit) : (s.setCause b).staging = s.staging := rfl
@[simp] theorem State.setCause_lanes (s : State) (b : CauseBit) : (s.setCause b).lanes = s.lanes := rfl
@[simp] theorem State.setCause_engine (s : State) (b : CauseBit) : (s.setCause b).engine = s.engine := rfl
@[simp] theorem State.setCause_counters (s : State) (b : CauseBit) : (s.setCause b).counters = s.counters := rfl
@[simp] theorem State.setCause_port (s : State) (b : CauseBit) (j : PortNo) :
    (s.setCause b).port j = s.port j := by
  simp [State.port]
@[simp] theorem State.setCause_map (s : State) (b : CauseBit) (j : PortNo) :
    (s.setCause b).map j = s.map j := by
  simp [State.map]
@[simp] theorem State.setCause_channel (s : State) (b : CauseBit) (j : ChannelNo) :
    (s.setCause b).channel j = s.channel j := by
  simp [State.channel]
@[simp] theorem State.setCause_lane (s : State) (b : CauseBit) (j : LaneNo) :
    (s.setCause b).lane j = s.lane j := by
  simp [State.lane]
@[simp] theorem State.setCause_stage (s : State) (b : CauseBit) (j : LaneNo) :
    (s.setCause b).stage j = s.stage j := by
  simp [State.stage]
@[simp] theorem State.setCause_inputOf (s : State) (b : CauseBit) (j : PortNo) :
    (s.setCause b).inputOf j = s.inputOf j := by
  simp [State.inputOf]
@[simp] theorem State.setCause_waitingOf (s : State) (b : CauseBit) (j : PortNo) :
    (s.setCause b).waitingOf j = s.waitingOf j := by
  simp [State.waitingOf]

/-! ### offer -/

@[simp] theorem State.offer_pending (s : State) (l : LaneNo) (o : Source) (r : Record) : (s.offer l o r).pending = s.pending := rfl
@[simp] theorem State.offer_count (s : State) (l : LaneNo) (o : Source) (r : Record) : (s.offer l o r).count = s.count := rfl
@[simp] theorem State.offer_timebase (s : State) (l : LaneNo) (o : Source) (r : Record) : (s.offer l o r).timebase = s.timebase := rfl
@[simp] theorem State.offer_discipline (s : State) (l : LaneNo) (o : Source) (r : Record) : (s.offer l o r).discipline = s.discipline := rfl
@[simp] theorem State.offer_ports (s : State) (l : LaneNo) (o : Source) (r : Record) : (s.offer l o r).ports = s.ports := rfl
@[simp] theorem State.offer_maps (s : State) (l : LaneNo) (o : Source) (r : Record) : (s.offer l o r).maps = s.maps := rfl
@[simp] theorem State.offer_patterns (s : State) (l : LaneNo) (o : Source) (r : Record) : (s.offer l o r).patterns = s.patterns := rfl
@[simp] theorem State.offer_channels (s : State) (l : LaneNo) (o : Source) (r : Record) : (s.offer l o r).channels = s.channels := rfl
@[simp] theorem State.offer_waiting (s : State) (l : LaneNo) (o : Source) (r : Record) : (s.offer l o r).waiting = s.waiting := rfl
@[simp] theorem State.offer_input (s : State) (l : LaneNo) (o : Source) (r : Record) : (s.offer l o r).input = s.input := rfl
@[simp] theorem State.offer_entries (s : State) (l : LaneNo) (o : Source) (r : Record) : (s.offer l o r).entries = s.entries := rfl
@[simp] theorem State.offer_nextOrder (s : State) (l : LaneNo) (o : Source) (r : Record) : (s.offer l o r).nextOrder = s.nextOrder := rfl
@[simp] theorem State.offer_staging (s : State) (l : LaneNo) (o : Source) (r : Record) : (s.offer l o r).staging = s.staging := rfl
@[simp] theorem State.offer_lanes (s : State) (l : LaneNo) (o : Source) (r : Record) : (s.offer l o r).lanes = s.lanes := rfl
@[simp] theorem State.offer_engine (s : State) (l : LaneNo) (o : Source) (r : Record) : (s.offer l o r).engine = s.engine := rfl
@[simp] theorem State.offer_bus (s : State) (l : LaneNo) (o : Source) (r : Record) : (s.offer l o r).bus = s.bus := rfl
@[simp] theorem State.offer_counters (s : State) (l : LaneNo) (o : Source) (r : Record) : (s.offer l o r).counters = s.counters := rfl
@[simp] theorem State.offer_port (s : State) (l : LaneNo) (o : Source) (r : Record) (j : PortNo) :
    (s.offer l o r).port j = s.port j := by
  simp [State.port]
@[simp] theorem State.offer_map (s : State) (l : LaneNo) (o : Source) (r : Record) (j : PortNo) :
    (s.offer l o r).map j = s.map j := by
  simp [State.map]
@[simp] theorem State.offer_channel (s : State) (l : LaneNo) (o : Source) (r : Record) (j : ChannelNo) :
    (s.offer l o r).channel j = s.channel j := by
  simp [State.channel]
@[simp] theorem State.offer_lane (s : State) (l : LaneNo) (o : Source) (r : Record) (j : LaneNo) :
    (s.offer l o r).lane j = s.lane j := by
  simp [State.lane]
@[simp] theorem State.offer_stage (s : State) (l : LaneNo) (o : Source) (r : Record) (j : LaneNo) :
    (s.offer l o r).stage j = s.stage j := by
  simp [State.stage]
@[simp] theorem State.offer_inputOf (s : State) (l : LaneNo) (o : Source) (r : Record) (j : PortNo) :
    (s.offer l o r).inputOf j = s.inputOf j := by
  simp [State.inputOf]
@[simp] theorem State.offer_waitingOf (s : State) (l : LaneNo) (o : Source) (r : Record) (j : PortNo) :
    (s.offer l o r).waitingOf j = s.waitingOf j := by
  simp [State.waitingOf]

/-! ### offerAll -/

@[simp] theorem State.offerAll_pending (s : State) (o : Source) (r : Record) : (s.offerAll o r).pending = s.pending := rfl
@[simp] theorem State.offerAll_count (s : State) (o : Source) (r : Record) : (s.offerAll o r).count = s.count := rfl
@[simp] theorem State.offerAll_timebase (s : State) (o : Source) (r : Record) : (s.offerAll o r).timebase = s.timebase := rfl
@[simp] theorem State.offerAll_discipline (s : State) (o : Source) (r : Record) : (s.offerAll o r).discipline = s.discipline := rfl
@[simp] theorem State.offerAll_ports (s : State) (o : Source) (r : Record) : (s.offerAll o r).ports = s.ports := rfl
@[simp] theorem State.offerAll_maps (s : State) (o : Source) (r : Record) : (s.offerAll o r).maps = s.maps := rfl
@[simp] theorem State.offerAll_patterns (s : State) (o : Source) (r : Record) : (s.offerAll o r).patterns = s.patterns := rfl
@[simp] theorem State.offerAll_channels (s : State) (o : Source) (r : Record) : (s.offerAll o r).channels = s.channels := rfl
@[simp] theorem State.offerAll_waiting (s : State) (o : Source) (r : Record) : (s.offerAll o r).waiting = s.waiting := rfl
@[simp] theorem State.offerAll_input (s : State) (o : Source) (r : Record) : (s.offerAll o r).input = s.input := rfl
@[simp] theorem State.offerAll_entries (s : State) (o : Source) (r : Record) : (s.offerAll o r).entries = s.entries := rfl
@[simp] theorem State.offerAll_nextOrder (s : State) (o : Source) (r : Record) : (s.offerAll o r).nextOrder = s.nextOrder := rfl
@[simp] theorem State.offerAll_staging (s : State) (o : Source) (r : Record) : (s.offerAll o r).staging = s.staging := rfl
@[simp] theorem State.offerAll_lanes (s : State) (o : Source) (r : Record) : (s.offerAll o r).lanes = s.lanes := rfl
@[simp] theorem State.offerAll_engine (s : State) (o : Source) (r : Record) : (s.offerAll o r).engine = s.engine := rfl
@[simp] theorem State.offerAll_bus (s : State) (o : Source) (r : Record) : (s.offerAll o r).bus = s.bus := rfl
@[simp] theorem State.offerAll_counters (s : State) (o : Source) (r : Record) : (s.offerAll o r).counters = s.counters := rfl
@[simp] theorem State.offerAll_port (s : State) (o : Source) (r : Record) (j : PortNo) :
    (s.offerAll o r).port j = s.port j := by
  simp [State.port]
@[simp] theorem State.offerAll_map (s : State) (o : Source) (r : Record) (j : PortNo) :
    (s.offerAll o r).map j = s.map j := by
  simp [State.map]
@[simp] theorem State.offerAll_channel (s : State) (o : Source) (r : Record) (j : ChannelNo) :
    (s.offerAll o r).channel j = s.channel j := by
  simp [State.channel]
@[simp] theorem State.offerAll_lane (s : State) (o : Source) (r : Record) (j : LaneNo) :
    (s.offerAll o r).lane j = s.lane j := by
  simp [State.lane]
@[simp] theorem State.offerAll_stage (s : State) (o : Source) (r : Record) (j : LaneNo) :
    (s.offerAll o r).stage j = s.stage j := by
  simp [State.stage]
@[simp] theorem State.offerAll_inputOf (s : State) (o : Source) (r : Record) (j : PortNo) :
    (s.offerAll o r).inputOf j = s.inputOf j := by
  simp [State.inputOf]
@[simp] theorem State.offerAll_waitingOf (s : State) (o : Source) (r : Record) (j : PortNo) :
    (s.offerAll o r).waitingOf j = s.waitingOf j := by
  simp [State.waitingOf]

/-! ### offerOrDiscard -/

@[simp] theorem State.offerOrDiscard_pending (s : State) (l : Option LaneNo) (o : Source) (r : Record) : (s.offerOrDiscard l o r).pending = s.pending := by
  cases l <;> rfl
@[simp] theorem State.offerOrDiscard_count (s : State) (l : Option LaneNo) (o : Source) (r : Record) : (s.offerOrDiscard l o r).count = s.count := by
  cases l <;> rfl
@[simp] theorem State.offerOrDiscard_timebase (s : State) (l : Option LaneNo) (o : Source) (r : Record) : (s.offerOrDiscard l o r).timebase = s.timebase := by
  cases l <;> rfl
@[simp] theorem State.offerOrDiscard_discipline (s : State) (l : Option LaneNo) (o : Source) (r : Record) : (s.offerOrDiscard l o r).discipline = s.discipline := by
  cases l <;> rfl
@[simp] theorem State.offerOrDiscard_ports (s : State) (l : Option LaneNo) (o : Source) (r : Record) : (s.offerOrDiscard l o r).ports = s.ports := by
  cases l <;> rfl
@[simp] theorem State.offerOrDiscard_maps (s : State) (l : Option LaneNo) (o : Source) (r : Record) : (s.offerOrDiscard l o r).maps = s.maps := by
  cases l <;> rfl
@[simp] theorem State.offerOrDiscard_patterns (s : State) (l : Option LaneNo) (o : Source) (r : Record) : (s.offerOrDiscard l o r).patterns = s.patterns := by
  cases l <;> rfl
@[simp] theorem State.offerOrDiscard_channels (s : State) (l : Option LaneNo) (o : Source) (r : Record) : (s.offerOrDiscard l o r).channels = s.channels := by
  cases l <;> rfl
@[simp] theorem State.offerOrDiscard_waiting (s : State) (l : Option LaneNo) (o : Source) (r : Record) : (s.offerOrDiscard l o r).waiting = s.waiting := by
  cases l <;> rfl
@[simp] theorem State.offerOrDiscard_input (s : State) (l : Option LaneNo) (o : Source) (r : Record) : (s.offerOrDiscard l o r).input = s.input := by
  cases l <;> rfl
@[simp] theorem State.offerOrDiscard_entries (s : State) (l : Option LaneNo) (o : Source) (r : Record) : (s.offerOrDiscard l o r).entries = s.entries := by
  cases l <;> rfl
@[simp] theorem State.offerOrDiscard_nextOrder (s : State) (l : Option LaneNo) (o : Source) (r : Record) : (s.offerOrDiscard l o r).nextOrder = s.nextOrder := by
  cases l <;> rfl
@[simp] theorem State.offerOrDiscard_staging (s : State) (l : Option LaneNo) (o : Source) (r : Record) : (s.offerOrDiscard l o r).staging = s.staging := by
  cases l <;> rfl
@[simp] theorem State.offerOrDiscard_lanes (s : State) (l : Option LaneNo) (o : Source) (r : Record) : (s.offerOrDiscard l o r).lanes = s.lanes := by
  cases l <;> rfl
@[simp] theorem State.offerOrDiscard_engine (s : State) (l : Option LaneNo) (o : Source) (r : Record) : (s.offerOrDiscard l o r).engine = s.engine := by
  cases l <;> rfl
@[simp] theorem State.offerOrDiscard_bus (s : State) (l : Option LaneNo) (o : Source) (r : Record) : (s.offerOrDiscard l o r).bus = s.bus := by
  cases l <;> rfl
@[simp] theorem State.offerOrDiscard_port (s : State) (l : Option LaneNo) (o : Source) (r : Record) (j : PortNo) :
    (s.offerOrDiscard l o r).port j = s.port j := by
  simp [State.port]
@[simp] theorem State.offerOrDiscard_map (s : State) (l : Option LaneNo) (o : Source) (r : Record) (j : PortNo) :
    (s.offerOrDiscard l o r).map j = s.map j := by
  simp [State.map]
@[simp] theorem State.offerOrDiscard_channel (s : State) (l : Option LaneNo) (o : Source) (r : Record) (j : ChannelNo) :
    (s.offerOrDiscard l o r).channel j = s.channel j := by
  simp [State.channel]
@[simp] theorem State.offerOrDiscard_lane (s : State) (l : Option LaneNo) (o : Source) (r : Record) (j : LaneNo) :
    (s.offerOrDiscard l o r).lane j = s.lane j := by
  simp [State.lane]
@[simp] theorem State.offerOrDiscard_stage (s : State) (l : Option LaneNo) (o : Source) (r : Record) (j : LaneNo) :
    (s.offerOrDiscard l o r).stage j = s.stage j := by
  simp [State.stage]
@[simp] theorem State.offerOrDiscard_inputOf (s : State) (l : Option LaneNo) (o : Source) (r : Record) (j : PortNo) :
    (s.offerOrDiscard l o r).inputOf j = s.inputOf j := by
  simp [State.inputOf]
@[simp] theorem State.offerOrDiscard_waitingOf (s : State) (l : Option LaneNo) (o : Source) (r : Record) (j : PortNo) :
    (s.offerOrDiscard l o r).waitingOf j = s.waitingOf j := by
  simp [State.waitingOf]

/-! ### answerWith -/

@[simp] theorem State.answerWith_pending (s : State) (o : ReqOutcome) (fs : List (Nat × List Byte)) : (s.answerWith o fs).pending = s.pending := rfl
@[simp] theorem State.answerWith_count (s : State) (o : ReqOutcome) (fs : List (Nat × List Byte)) : (s.answerWith o fs).count = s.count := rfl
@[simp] theorem State.answerWith_timebase (s : State) (o : ReqOutcome) (fs : List (Nat × List Byte)) : (s.answerWith o fs).timebase = s.timebase := rfl
@[simp] theorem State.answerWith_discipline (s : State) (o : ReqOutcome) (fs : List (Nat × List Byte)) : (s.answerWith o fs).discipline = s.discipline := rfl
@[simp] theorem State.answerWith_ports (s : State) (o : ReqOutcome) (fs : List (Nat × List Byte)) : (s.answerWith o fs).ports = s.ports := rfl
@[simp] theorem State.answerWith_maps (s : State) (o : ReqOutcome) (fs : List (Nat × List Byte)) : (s.answerWith o fs).maps = s.maps := rfl
@[simp] theorem State.answerWith_patterns (s : State) (o : ReqOutcome) (fs : List (Nat × List Byte)) : (s.answerWith o fs).patterns = s.patterns := rfl
@[simp] theorem State.answerWith_channels (s : State) (o : ReqOutcome) (fs : List (Nat × List Byte)) : (s.answerWith o fs).channels = s.channels := rfl
@[simp] theorem State.answerWith_waiting (s : State) (o : ReqOutcome) (fs : List (Nat × List Byte)) : (s.answerWith o fs).waiting = s.waiting := rfl
@[simp] theorem State.answerWith_input (s : State) (o : ReqOutcome) (fs : List (Nat × List Byte)) : (s.answerWith o fs).input = s.input := rfl
@[simp] theorem State.answerWith_entries (s : State) (o : ReqOutcome) (fs : List (Nat × List Byte)) : (s.answerWith o fs).entries = s.entries := rfl
@[simp] theorem State.answerWith_nextOrder (s : State) (o : ReqOutcome) (fs : List (Nat × List Byte)) : (s.answerWith o fs).nextOrder = s.nextOrder := rfl
@[simp] theorem State.answerWith_offers (s : State) (o : ReqOutcome) (fs : List (Nat × List Byte)) : (s.answerWith o fs).offers = s.offers := rfl
@[simp] theorem State.answerWith_staging (s : State) (o : ReqOutcome) (fs : List (Nat × List Byte)) : (s.answerWith o fs).staging = s.staging := rfl
@[simp] theorem State.answerWith_lanes (s : State) (o : ReqOutcome) (fs : List (Nat × List Byte)) : (s.answerWith o fs).lanes = s.lanes := rfl
@[simp] theorem State.answerWith_bus (s : State) (o : ReqOutcome) (fs : List (Nat × List Byte)) : (s.answerWith o fs).bus = s.bus := rfl
@[simp] theorem State.answerWith_counters (s : State) (o : ReqOutcome) (fs : List (Nat × List Byte)) : (s.answerWith o fs).counters = s.counters := rfl
@[simp] theorem State.answerWith_port (s : State) (o : ReqOutcome) (fs : List (Nat × List Byte)) (j : PortNo) :
    (s.answerWith o fs).port j = s.port j := by
  simp [State.port]
@[simp] theorem State.answerWith_map (s : State) (o : ReqOutcome) (fs : List (Nat × List Byte)) (j : PortNo) :
    (s.answerWith o fs).map j = s.map j := by
  simp [State.map]
@[simp] theorem State.answerWith_channel (s : State) (o : ReqOutcome) (fs : List (Nat × List Byte)) (j : ChannelNo) :
    (s.answerWith o fs).channel j = s.channel j := by
  simp [State.channel]
@[simp] theorem State.answerWith_lane (s : State) (o : ReqOutcome) (fs : List (Nat × List Byte)) (j : LaneNo) :
    (s.answerWith o fs).lane j = s.lane j := by
  simp [State.lane]
@[simp] theorem State.answerWith_stage (s : State) (o : ReqOutcome) (fs : List (Nat × List Byte)) (j : LaneNo) :
    (s.answerWith o fs).stage j = s.stage j := by
  simp [State.stage]
@[simp] theorem State.answerWith_inputOf (s : State) (o : ReqOutcome) (fs : List (Nat × List Byte)) (j : PortNo) :
    (s.answerWith o fs).inputOf j = s.inputOf j := by
  simp [State.inputOf]
@[simp] theorem State.answerWith_waitingOf (s : State) (o : ReqOutcome) (fs : List (Nat × List Byte)) (j : PortNo) :
    (s.answerWith o fs).waitingOf j = s.waitingOf j := by
  simp [State.waitingOf]

/-! ### dropRead -/

@[simp] theorem State.dropRead_pending (s : State) (tag : Nat) : (s.dropRead tag).pending = s.pending := rfl
@[simp] theorem State.dropRead_count (s : State) (tag : Nat) : (s.dropRead tag).count = s.count := rfl
@[simp] theorem State.dropRead_timebase (s : State) (tag : Nat) : (s.dropRead tag).timebase = s.timebase := rfl
@[simp] theorem State.dropRead_discipline (s : State) (tag : Nat) : (s.dropRead tag).discipline = s.discipline := rfl
@[simp] theorem State.dropRead_ports (s : State) (tag : Nat) : (s.dropRead tag).ports = s.ports := rfl
@[simp] theorem State.dropRead_maps (s : State) (tag : Nat) : (s.dropRead tag).maps = s.maps := rfl
@[simp] theorem State.dropRead_patterns (s : State) (tag : Nat) : (s.dropRead tag).patterns = s.patterns := rfl
@[simp] theorem State.dropRead_channels (s : State) (tag : Nat) : (s.dropRead tag).channels = s.channels := rfl
@[simp] theorem State.dropRead_waiting (s : State) (tag : Nat) : (s.dropRead tag).waiting = s.waiting := rfl
@[simp] theorem State.dropRead_input (s : State) (tag : Nat) : (s.dropRead tag).input = s.input := rfl
@[simp] theorem State.dropRead_entries (s : State) (tag : Nat) : (s.dropRead tag).entries = s.entries := rfl
@[simp] theorem State.dropRead_nextOrder (s : State) (tag : Nat) : (s.dropRead tag).nextOrder = s.nextOrder := rfl
@[simp] theorem State.dropRead_offers (s : State) (tag : Nat) : (s.dropRead tag).offers = s.offers := rfl
@[simp] theorem State.dropRead_staging (s : State) (tag : Nat) : (s.dropRead tag).staging = s.staging := rfl
@[simp] theorem State.dropRead_lanes (s : State) (tag : Nat) : (s.dropRead tag).lanes = s.lanes := rfl
@[simp] theorem State.dropRead_engine (s : State) (tag : Nat) : (s.dropRead tag).engine = s.engine := rfl
@[simp] theorem State.dropRead_counters (s : State) (tag : Nat) : (s.dropRead tag).counters = s.counters := rfl
@[simp] theorem State.dropRead_port (s : State) (tag : Nat) (j : PortNo) :
    (s.dropRead tag).port j = s.port j := by
  simp [State.port]
@[simp] theorem State.dropRead_map (s : State) (tag : Nat) (j : PortNo) :
    (s.dropRead tag).map j = s.map j := by
  simp [State.map]
@[simp] theorem State.dropRead_channel (s : State) (tag : Nat) (j : ChannelNo) :
    (s.dropRead tag).channel j = s.channel j := by
  simp [State.channel]
@[simp] theorem State.dropRead_lane (s : State) (tag : Nat) (j : LaneNo) :
    (s.dropRead tag).lane j = s.lane j := by
  simp [State.lane]
@[simp] theorem State.dropRead_stage (s : State) (tag : Nat) (j : LaneNo) :
    (s.dropRead tag).stage j = s.stage j := by
  simp [State.stage]
@[simp] theorem State.dropRead_inputOf (s : State) (tag : Nat) (j : PortNo) :
    (s.dropRead tag).inputOf j = s.inputOf j := by
  simp [State.inputOf]
@[simp] theorem State.dropRead_waitingOf (s : State) (tag : Nat) (j : PortNo) :
    (s.dropRead tag).waitingOf j = s.waitingOf j := by
  simp [State.waitingOf]

/-! ### noteAge -/

@[simp] theorem State.noteAge_pending (s : State) (r : ReadOp) : (s.noteAge r).pending = s.pending := rfl
@[simp] theorem State.noteAge_count (s : State) (r : ReadOp) : (s.noteAge r).count = s.count := rfl
@[simp] theorem State.noteAge_timebase (s : State) (r : ReadOp) : (s.noteAge r).timebase = s.timebase := rfl
@[simp] theorem State.noteAge_discipline (s : State) (r : ReadOp) : (s.noteAge r).discipline = s.discipline := rfl
@[simp] theorem State.noteAge_ports (s : State) (r : ReadOp) : (s.noteAge r).ports = s.ports := rfl
@[simp] theorem State.noteAge_maps (s : State) (r : ReadOp) : (s.noteAge r).maps = s.maps := rfl
@[simp] theorem State.noteAge_patterns (s : State) (r : ReadOp) : (s.noteAge r).patterns = s.patterns := rfl
@[simp] theorem State.noteAge_channels (s : State) (r : ReadOp) : (s.noteAge r).channels = s.channels := rfl
@[simp] theorem State.noteAge_waiting (s : State) (r : ReadOp) : (s.noteAge r).waiting = s.waiting := rfl
@[simp] theorem State.noteAge_input (s : State) (r : ReadOp) : (s.noteAge r).input = s.input := rfl
@[simp] theorem State.noteAge_entries (s : State) (r : ReadOp) : (s.noteAge r).entries = s.entries := rfl
@[simp] theorem State.noteAge_nextOrder (s : State) (r : ReadOp) : (s.noteAge r).nextOrder = s.nextOrder := rfl
@[simp] theorem State.noteAge_offers (s : State) (r : ReadOp) : (s.noteAge r).offers = s.offers := rfl
@[simp] theorem State.noteAge_staging (s : State) (r : ReadOp) : (s.noteAge r).staging = s.staging := rfl
@[simp] theorem State.noteAge_lanes (s : State) (r : ReadOp) : (s.noteAge r).lanes = s.lanes := rfl
@[simp] theorem State.noteAge_engine (s : State) (r : ReadOp) : (s.noteAge r).engine = s.engine := rfl
@[simp] theorem State.noteAge_counters (s : State) (r : ReadOp) : (s.noteAge r).counters = s.counters := rfl
@[simp] theorem State.noteAge_port (s : State) (r : ReadOp) (j : PortNo) :
    (s.noteAge r).port j = s.port j := by
  simp [State.port]
@[simp] theorem State.noteAge_map (s : State) (r : ReadOp) (j : PortNo) :
    (s.noteAge r).map j = s.map j := by
  simp [State.map]
@[simp] theorem State.noteAge_channel (s : State) (r : ReadOp) (j : ChannelNo) :
    (s.noteAge r).channel j = s.channel j := by
  simp [State.channel]
@[simp] theorem State.noteAge_lane (s : State) (r : ReadOp) (j : LaneNo) :
    (s.noteAge r).lane j = s.lane j := by
  simp [State.lane]
@[simp] theorem State.noteAge_stage (s : State) (r : ReadOp) (j : LaneNo) :
    (s.noteAge r).stage j = s.stage j := by
  simp [State.stage]
@[simp] theorem State.noteAge_inputOf (s : State) (r : ReadOp) (j : PortNo) :
    (s.noteAge r).inputOf j = s.inputOf j := by
  simp [State.inputOf]
@[simp] theorem State.noteAge_waitingOf (s : State) (r : ReadOp) (j : PortNo) :
    (s.noteAge r).waitingOf j = s.waitingOf j := by
  simp [State.waitingOf]

/-! ### disownReads -/

@[simp] theorem State.disownReads_pending (s : State) (which : ReadPurpose → Bool) : (s.disownReads which).pending = s.pending := rfl
@[simp] theorem State.disownReads_count (s : State) (which : ReadPurpose → Bool) : (s.disownReads which).count = s.count := rfl
@[simp] theorem State.disownReads_timebase (s : State) (which : ReadPurpose → Bool) : (s.disownReads which).timebase = s.timebase := rfl
@[simp] theorem State.disownReads_discipline (s : State) (which : ReadPurpose → Bool) : (s.disownReads which).discipline = s.discipline := rfl
@[simp] theorem State.disownReads_ports (s : State) (which : ReadPurpose → Bool) : (s.disownReads which).ports = s.ports := rfl
@[simp] theorem State.disownReads_maps (s : State) (which : ReadPurpose → Bool) : (s.disownReads which).maps = s.maps := rfl
@[simp] theorem State.disownReads_patterns (s : State) (which : ReadPurpose → Bool) : (s.disownReads which).patterns = s.patterns := rfl
@[simp] theorem State.disownReads_channels (s : State) (which : ReadPurpose → Bool) : (s.disownReads which).channels = s.channels := rfl
@[simp] theorem State.disownReads_waiting (s : State) (which : ReadPurpose → Bool) : (s.disownReads which).waiting = s.waiting := rfl
@[simp] theorem State.disownReads_input (s : State) (which : ReadPurpose → Bool) : (s.disownReads which).input = s.input := rfl
@[simp] theorem State.disownReads_entries (s : State) (which : ReadPurpose → Bool) : (s.disownReads which).entries = s.entries := rfl
@[simp] theorem State.disownReads_nextOrder (s : State) (which : ReadPurpose → Bool) : (s.disownReads which).nextOrder = s.nextOrder := rfl
@[simp] theorem State.disownReads_offers (s : State) (which : ReadPurpose → Bool) : (s.disownReads which).offers = s.offers := rfl
@[simp] theorem State.disownReads_staging (s : State) (which : ReadPurpose → Bool) : (s.disownReads which).staging = s.staging := rfl
@[simp] theorem State.disownReads_lanes (s : State) (which : ReadPurpose → Bool) : (s.disownReads which).lanes = s.lanes := rfl
@[simp] theorem State.disownReads_engine (s : State) (which : ReadPurpose → Bool) : (s.disownReads which).engine = s.engine := rfl
@[simp] theorem State.disownReads_counters (s : State) (which : ReadPurpose → Bool) : (s.disownReads which).counters = s.counters := rfl
@[simp] theorem State.disownReads_port (s : State) (which : ReadPurpose → Bool) (j : PortNo) :
    (s.disownReads which).port j = s.port j := by
  simp [State.port]
@[simp] theorem State.disownReads_map (s : State) (which : ReadPurpose → Bool) (j : PortNo) :
    (s.disownReads which).map j = s.map j := by
  simp [State.map]
@[simp] theorem State.disownReads_channel (s : State) (which : ReadPurpose → Bool) (j : ChannelNo) :
    (s.disownReads which).channel j = s.channel j := by
  simp [State.channel]
@[simp] theorem State.disownReads_lane (s : State) (which : ReadPurpose → Bool) (j : LaneNo) :
    (s.disownReads which).lane j = s.lane j := by
  simp [State.lane]
@[simp] theorem State.disownReads_stage (s : State) (which : ReadPurpose → Bool) (j : LaneNo) :
    (s.disownReads which).stage j = s.stage j := by
  simp [State.stage]
@[simp] theorem State.disownReads_inputOf (s : State) (which : ReadPurpose → Bool) (j : PortNo) :
    (s.disownReads which).inputOf j = s.inputOf j := by
  simp [State.inputOf]
@[simp] theorem State.disownReads_waitingOf (s : State) (which : ReadPurpose → Bool) (j : PortNo) :
    (s.disownReads which).waitingOf j = s.waitingOf j := by
  simp [State.waitingOf]

end Sys2Proof.Machine
end

