-- ==== Sys2Proof/Laws/Bus.lean ====
section
/-! SUPPORT. What operations put out at the Bus Interface: events added to the log, one interrupt message when the
summary rises, and no host-memory access in the FAULTED state. -/

namespace Sys2Proof.Machine

/-- c is b after events that are one message exactly when the summary rose with sending enabled, and no host-memory
access while FAULTED; the summary does not fall and a fault stays. -/
def BusInterface.Emits (b c : BusInterface) : Prop :=
  c.message = b.message ∧ (b.summary = true → c.summary = true) ∧ (b.faulted = true → c.faulted = true)
    ∧ ∃ events : List BusEvent, c.log = b.log ++ events
      ∧ events.filter BusEvent.isMessage =
          (if b.summary = false ∧ c.summary = true ∧ b.message.sending = true
            then [.message b.message.address b.message.data] else [])
      ∧ (b.faulted = true → ∀ e ∈ events, e.offMemory = true)

/-- A change that leaves the summary, the message capability and the log alone, and keeps a fault. -/
theorem BusInterface.Emits.of_same {b c : BusInterface} (m : c.message = b.message) (l : c.log = b.log)
    (u : c.summary = b.summary) (f : b.faulted = true → c.faulted = true) : b.Emits c := by
  refine ⟨m, by rw [u]; exact id, f, [], by rw [l, List.append_nil], ?_, by simp⟩
  rw [if_neg]
  · rfl
  · rintro ⟨h, g, _⟩
    rw [u, h] at g
    exact Bool.noConfusion g

theorem BusInterface.Emits.refl (b : BusInterface) : b.Emits b := .of_same rfl rfl rfl id

theorem BusInterface.Emits.trans {a b c : BusInterface} (h : a.Emits b) (g : b.Emits c) : a.Emits c := by
  obtain ⟨hm, hs, hf, x, hl, hx, ho⟩ := h
  obtain ⟨gm, gs, gf, y, gl, gy, go⟩ := g
  refine ⟨gm.trans hm, gs ∘ hs, gf ∘ hf, x ++ y, by rw [gl, hl, List.append_assoc], ?_, ?_⟩
  · rw [List.filter_append, hx, gy, hm]
    cases ha : a.summary <;> cases hb : b.summary <;> cases hc : c.summary <;> cases hd : a.message.sending <;>
      simp_all
  · intro h e he
    rcases List.mem_append.mp he with he | he
    · exact ho h e he
    · exact go (hf h) e he

/-- Registers that change, with the message that a rise of the summary sends. -/
theorem BusInterface.Emits.withMessage {b c : BusInterface} (m : c.message = b.message) (l : c.log = b.log)
    (u : b.summary = true → c.summary = true) (f : b.faulted = true → c.faulted = true) : b.Emits (b.withMessage c) := by
  unfold BusInterface.withMessage BusInterface.sendMessage
  cases hb : b.summary <;> cases hc : c.summary
  · simpa [hb, hc] using BusInterface.Emits.of_same m l (by rw [hb, hc]) f
  · simp only [Bool.not_false, Bool.and_true, if_true]
    by_cases hs : c.message.sending = true
    · rw [if_pos hs]
      refine ⟨m, fun _ => hc, f, [.message c.message.address c.message.data], by rw [l], ?_, by simp [BusEvent.offMemory]⟩
      rw [if_pos ⟨hb, hc, by rw [← m]; exact hs⟩, m]; rfl
    · rw [if_neg hs]
      refine ⟨m, fun _ => hc, f, [], by rw [l, List.append_nil], ?_, by simp⟩
      rw [if_neg]
      · rfl
      · rintro ⟨_, _, h⟩
        exact hs (by rw [m]; exact h)
  · simp [u hb] at hc
  · simpa [hb, hc] using BusInterface.Emits.of_same m l (by rw [hb, hc]) f

/-- A message changes the log only. -/
theorem BusInterface.withMessage_eq (a b : BusInterface) : a.withMessage b = { b with log := (a.withMessage b).log } := by
  unfold BusInterface.withMessage BusInterface.sendMessage
  split
  · split <;> rfl
  · rfl

theorem State.emits_setCause (s : State) (bit : CauseBit) : s.bus.Emits (s.setCause bit).bus := by
  refine BusInterface.Emits.withMessage rfl rfl ?_ id
  simp only [BusInterface.summary, Bool.and_eq_true, bne_iff_ne, ne_eq]
  rintro ⟨h, g⟩
  refine ⟨h, fun z => g ?_⟩
  apply BitVec.eq_of_getLsbD_eq
  intro i hi
  have := congrArg (fun v => BitVec.getLsbD v i) z
  simp only [BitVec.getLsbD_and, BitVec.getLsbD_or] at this ⊢
  cases h1 : s.bus.cause.getLsbD i <;> cases h2 : s.bus.enables.getLsbD i <;> simp_all

theorem State.emits_issueWrite (s : State) (runs : List Run) : s.bus.Emits (s.issueWrite runs).bus := by
  unfold State.issueWrite
  split
  · exact .refl _
  · rename_i h
    refine ⟨rfl, id, id, [.write runs], rfl, ?_, fun g => absurd g h⟩
    rw [if_neg]
    · rfl
    · rintro ⟨a, b, _⟩
      exact absurd (show s.bus.summary = true from b) (by simp [a])

theorem State.emits_issueRead (s : State) (p : ReadPurpose) (a : Address) (n : Nat) :
    s.bus.Emits (s.issueRead p a n).bus := by
  unfold State.issueRead
  split
  · exact .refl _
  · rename_i h
    refine ⟨rfl, id, id, [.read s.bus.nextTag a n], rfl, ?_, fun g => absurd g h⟩
    rw [if_neg]
    · rfl
    · rintro ⟨a, b, _⟩
      exact absurd (show s.bus.summary = true from b) (by simp [a])

/-! ### Reports: records offered, counters and CAUSE -/

/-- t is s after offers, counts and settings of CAUSE. -/
inductive State.Reports (s : State) : State → Prop
  | refl : State.Reports s s
  | bumpBy {t : State} (c : Counter) (n : Nat) (h : State.Reports s t) : State.Reports s (t.bumpBy c n)
  | offered {t : State} (os : List Offer) (h : State.Reports s t) : State.Reports s { t with offers := os }
  | setCause {t : State} (bit : CauseBit) (h : State.Reports s t) : State.Reports s (t.setCause bit)

theorem State.Reports.trans {s t u : State} (h : s.Reports t) (g : t.Reports u) : s.Reports u := by
  induction g with
  | refl => exact h
  | bumpBy c n _ ih => exact .bumpBy c n ih
  | offered os _ ih => exact .offered os ih
  | setCause bit _ ih => exact .setCause bit ih

section
variable {s t : State} (h : s.Reports t)
include h

theorem State.Reports.bump (c : Counter) : s.Reports (t.bump c) := .bumpBy c 1 h
theorem State.Reports.offer (l : LaneNo) (x : Source) (r : Record) : s.Reports (t.offer l x r) := .offered _ h
theorem State.Reports.offerOrDiscard (l : Option LaneNo) (x : Source) (r : Record) :
    s.Reports (t.offerOrDiscard l x r) := by
  cases l with
  | none => exact h.bump _
  | some l => exact h.offer l x r

theorem State.Reports.eq :
    t = { s with offers := t.offers, counters := t.counters, bus := { s.bus with cause := t.bus.cause, log := t.bus.log } } := by
  induction h with
  | refl => rfl
  | bumpBy c n _ ih => rw [State.bumpBy, ih]
  | offered os _ ih => rw [ih]
  | setCause bit _ ih =>
    rw [State.setCause, BusInterface.withMessage_eq, ih]

theorem State.Reports.emits : s.bus.Emits t.bus := by
  induction h with
  | refl => exact .refl _
  | bumpBy c n _ ih => exact ih
  | offered os _ ih => exact ih
  | setCause bit _ ih => exact ih.trans (State.emits_setCause _ bit)

end

end Sys2Proof.Machine
end

