-- ==== Sys2Proof/Laws/Bytes.lean ====
section
/-! SUPPORT. Byte strings: lengths, numbers read back from their bytes, and a layout as the concatenation of its
fields. -/

namespace Sys2Proof.Machine

@[simp] theorem leBytes_length (width n : Nat) : (leBytes width n).length = width := by
  induction width generalizing n with
  | zero => rfl
  | succ w ih => simp [leBytes, ih]

@[simp] theorem leInt_length (width : Nat) (i : Int) : (leInt width i).length = width := leBytes_length ..

@[simp] theorem zeros_length (n : Nat) : (zeros n).length = n := List.length_replicate

@[simp] theorem zeros_zero : zeros 0 = [] := rfl

theorem zeros_append (m n : Nat) : zeros m ++ zeros n = zeros (m + n) := List.replicate_append_replicate

/-- The number that so many bytes of n spell is n modulo their range. -/
@[simp] theorem leNat_leBytes (width n : Nat) : leNat (leBytes width n) = n % 256 ^ width := by
  induction width generalizing n with
  | zero => simp [leBytes, leNat, Nat.mod_one]
  | succ w ih =>
    simp only [leBytes, leNat, ih, BitVec.toNat_ofNat]
    rw [show (256 : Nat) ^ (w + 1) = 256 * 256 ^ w by rw [Nat.pow_succ, Nat.mul_comm], Nat.mod_mul]

/-- Only the low bytes of a number count. -/
theorem leBytes_mod (width n : Nat) : leBytes width (n % 256 ^ width) = leBytes width n := by
  induction width generalizing n with
  | zero => rfl
  | succ width ih =>
    rw [leBytes, leBytes, ← ih (n / 256), Nat.pow_succ, Nat.mul_comm, Nat.mod_mul_right_div_self]
    congr 1
    apply BitVec.eq_of_toNat_eq
    simp only [BitVec.toNat_ofNat]
    exact Nat.mod_mul_right_mod n 256 (256 ^ width)

/-- So many bytes spell a number below their range. -/
theorem leNat_lt (bs : List Byte) : leNat bs < 256 ^ bs.length := by
  induction bs with
  | nil => simp [leNat]
  | cons b bs ih =>
    have := b.isLt
    rw [List.length_cons, Nat.pow_succ, leNat]
    omega

@[simp] theorem length_fieldAt_le (bs : List Byte) (offset length : Nat) : (fieldAt bs offset length).length ≤ length :=
  List.length_take_le ..

/-- A field of so many bytes spells a number below their range, whether or not the string holds them all. -/
theorem leNat_fieldAt_lt (bs : List Byte) (offset length : Nat) : leNat (fieldAt bs offset length) < 256 ^ length :=
  Nat.lt_of_lt_of_le (leNat_lt _) (Nat.pow_le_pow_right (by decide) (length_fieldAt_le ..))

/-- Fields in rising order from a position on, within a size. -/
def Ordered (size : Nat) : Nat → List (Nat × List Byte) → Prop
  | pos, [] => pos ≤ size
  | pos, f :: fs => pos ≤ f.1 ∧ Ordered size (f.1 + f.2.length) fs

/-- Fields in rising order from a position on, with zero bytes between them and after the last. -/
def filled (size : Nat) : Nat → List (Nat × List Byte) → List Byte
  | pos, [] => zeros (size - pos)
  | pos, f :: fs => zeros (f.1 - pos) ++ f.2 ++ filled size (f.1 + f.2.length) fs

theorem Ordered.le {size pos : Nat} {fs : List (Nat × List Byte)} (h : Ordered size pos fs) : pos ≤ size := by
  induction fs generalizing pos with
  | nil => exact h
  | cons f fs ih => exact Nat.le_trans h.1 (Nat.le_trans (Nat.le_add_right ..) (ih h.2))

/-- A field put over zero bytes. -/
theorem placeAt_zeros (pre f : List Byte) (n offset : Nat) (h : pre.length ≤ offset)
    (g : offset + f.length ≤ pre.length + n) :
    placeAt (pre ++ zeros n) offset f =
      pre ++ zeros (offset - pre.length) ++ f ++ zeros (pre.length + n - (offset + f.length)) := by
  unfold placeAt
  rw [List.take_append, List.take_of_length_le h, List.drop_append, List.drop_of_length_le (by omega)]
  simp only [zeros, List.take_replicate, List.drop_replicate, List.nil_append, List.append_assoc]
  have a : min (offset - pre.length) n = offset - pre.length := by omega
  have b : n - (offset + f.length - pre.length) = pre.length + n - (offset + f.length) := by omega
  rw [a, b]

/-- A layout of fields in rising order is their concatenation, with zero bytes in the gaps. -/
theorem layout_eq_filled (size : Nat) (fs : List (Nat × List Byte)) (h : Ordered size 0 fs) :
    layout size fs = filled size 0 fs := by
  have all : ∀ (fs : List (Nat × List Byte)) (pre : List Byte), Ordered size pre.length fs →
      fs.foldl (fun bs f => placeAt bs f.1 f.2) (pre ++ zeros (size - pre.length)) = pre ++ filled size pre.length fs := by
    intro fs
    induction fs with
    | nil => intros; rfl
    | cons f fs ih =>
      intro pre h
      have le := h.2.le
      have len : (pre ++ zeros (f.1 - pre.length) ++ f.2).length = f.1 + f.2.length := by
        have := h.1
        simp; omega
      have next := ih (pre ++ zeros (f.1 - pre.length) ++ f.2) (by rw [len]; exact h.2)
      have := h.1
      rw [List.foldl_cons, placeAt_zeros pre f.2 _ _ h.1 (by omega), show
        pre.length + (size - pre.length) - (f.1 + f.2.length) = size - (f.1 + f.2.length) by omega]
      rw [len] at next
      rw [next]
      simp only [filled, List.append_assoc]
  exact all fs [] h

/-- A layout has its size. -/
theorem layout_length (size : Nat) (fs : List (Nat × List Byte)) (h : Ordered size 0 fs) :
    (layout size fs).length = size := by
  have all : ∀ (fs : List (Nat × List Byte)) (pos : Nat), Ordered size pos fs →
      (filled size pos fs).length = size - pos := by
    intro fs
    induction fs with
    | nil => intro pos _; simp [filled]
    | cons f fs ih =>
      intro pos h
      have := h.2.le
      have := h.1
      simp [filled, ih _ h.2]; omega
  rw [layout_eq_filled size fs h, all fs 0 h, Nat.sub_zero]

/-! ### Reading a layout back -/

/-- Fields that lie within a string of a length, no two of them overlapping. -/
def Fits (size : Nat) (fs : List (Nat × List Byte)) : Prop :=
  (∀ f ∈ fs, f.1 + f.2.length ≤ size)
    ∧ fs.Pairwise fun f g => f.1 + f.2.length ≤ g.1 ∨ g.1 + g.2.length ≤ f.1

/-- The places of fields: their offsets and lengths. -/
def places (fs : List (Nat × List Byte)) : List (Nat × Nat) := fs.map fun f => (f.1, f.2.length)

/-- Fitting, by the places alone: a check that is decidable on numbers. -/
abbrev FitsPlaces (size : Nat) (ps : List (Nat × Nat)) : Prop :=
  (∀ p ∈ ps, p.1 + p.2 ≤ size) ∧ ps.Pairwise fun p q => p.1 + p.2 ≤ q.1 ∨ q.1 + q.2 ≤ p.1

theorem fits_of_places {size : Nat} {fs : List (Nat × List Byte)} {ps : List (Nat × Nat)} (e : places fs = ps)
    (h : FitsPlaces size ps) : Fits size fs := by
  subst e
  refine ⟨fun f hf => h.1 _ (List.mem_map_of_mem hf), ?_⟩
  exact List.pairwise_map.mp h.2

theorem placeAt_length (bs f : List Byte) (offset : Nat) (h : offset + f.length ≤ bs.length) :
    (placeAt bs offset f).length = bs.length := by
  simp only [placeAt, List.length_append, List.length_take, List.length_drop]
  omega

/-- A field put over a string reads back. -/
theorem fieldAt_placeAt_self (bs f : List Byte) (offset : Nat) (h : offset + f.length ≤ bs.length) :
    fieldAt (placeAt bs offset f) offset f.length = f := by
  have : (bs.take offset).length = offset := by rw [List.length_take]; omega
  simp only [fieldAt, placeAt, List.append_assoc]
  rw [List.drop_append_of_le_length (by omega), List.drop_of_length_le (by omega), List.nil_append,
    List.take_left]

/-- A field put over a string leaves the bytes outside it. -/
theorem fieldAt_placeAt_of_apart (bs f : List Byte) (offset at' n : Nat) (h : offset + f.length ≤ bs.length)
    (apart : at' + n ≤ offset ∨ offset + f.length ≤ at') : fieldAt (placeAt bs offset f) at' n = fieldAt bs at' n := by
  have e : (bs.take offset).length = offset := by rw [List.length_take]; omega
  apply List.ext_getElem?
  intro i
  simp only [fieldAt, placeAt, List.append_assoc, List.getElem?_take, List.getElem?_drop, List.getElem?_append, e]
  by_cases hi : i < n
  · simp only [hi, if_true]
    by_cases h1 : at' + i < offset
    · simp only [h1, if_true]
    · have h2 : ¬ at' + i - offset < f.length := by omega
      simp only [h1, if_false, h2]
      congr 1; omega
  · simp only [hi, if_false]

/-- A layout of fields that fit: its length, each field as it was put, and every stretch apart from all fields 0. -/
theorem foldl_placeAt (size : Nat) (fs : List (Nat × List Byte)) (bs : List Byte) (hl : bs.length = size)
    (h : Fits size fs) :
    (fs.foldl (fun bs f => placeAt bs f.1 f.2) bs).length = size
      ∧ (∀ f ∈ fs, fieldAt (fs.foldl (fun bs f => placeAt bs f.1 f.2) bs) f.1 f.2.length = f.2)
      ∧ ∀ at' n : Nat, (∀ f ∈ fs, at' + n ≤ f.1 ∨ f.1 + f.2.length ≤ at') →
          fieldAt (fs.foldl (fun bs f => placeAt bs f.1 f.2) bs) at' n = fieldAt bs at' n := by
  induction fs generalizing bs with
  | nil => exact ⟨hl, by simp, by simp⟩
  | cons f fs ih =>
    have hf : f.1 + f.2.length ≤ bs.length := by rw [hl]; exact h.1 f (List.mem_cons_self ..)
    obtain ⟨p, q⟩ := List.pairwise_cons.mp h.2
    obtain ⟨a, b, c⟩ := ih (placeAt bs f.1 f.2) (by rw [placeAt_length _ _ _ hf, hl])
      ⟨fun g hg => h.1 g (List.mem_cons_of_mem _ hg), q⟩
    refine ⟨a, ?_, ?_⟩
    · intro g hg
      rcases List.mem_cons.mp hg with rfl | hg
      · exact (c g.1 g.2.length p).trans (fieldAt_placeAt_self _ _ _ hf)
      · exact b g hg
    · intro at' n ha
      exact (c at' n fun g hg => ha g (List.mem_cons_of_mem _ hg)).trans
        (fieldAt_placeAt_of_apart _ _ _ _ _ hf (ha f (List.mem_cons_self ..)))

theorem layout_length_of_fits (size : Nat) (fs : List (Nat × List Byte)) (h : Fits size fs) :
    (layout size fs).length = size := (foldl_placeAt size fs _ (zeros_length _) h).1

/-- Each field of a layout reads back. -/
theorem fieldAt_layout {size : Nat} {fs : List (Nat × List Byte)} (h : Fits size fs) {f : Nat × List Byte} (hf : f ∈ fs) :
    fieldAt (layout size fs) f.1 f.2.length = f.2 := (foldl_placeAt size fs _ (zeros_length _) h).2.1 f hf

/-- Every byte of a layout that no field names is 0. -/
theorem fieldAt_layout_gap {size : Nat} {fs : List (Nat × List Byte)} (h : Fits size fs) (at' n : Nat)
    (hn : at' + n ≤ size) (ha : ∀ f ∈ fs, at' + n ≤ f.1 ∨ f.1 + f.2.length ≤ at') :
    fieldAt (layout size fs) at' n = zeros n := by
  refine ((foldl_placeAt size fs _ (zeros_length _) h).2.2 at' n ha).trans ?_
  simp only [fieldAt, zeros, List.drop_replicate, List.take_replicate]
  congr 1; omega

end Sys2Proof.Machine
end

