-- ==== Sys2Proof/Laws/Counters.lean ====
section
/-! SUPPORT. The counters: a counter reads back what is put into it, and no other counter changes. -/

namespace Sys2Proof.Machine

@[simp] theorem Counters.get_put_self (cs : Counters) (n : Counter) (v : Count) : (cs.put n v).get n = v := by
  cases n <;> simp [Counters.get, Counters.put]
theorem PortCounter.row_inj {a b : PortCounter} (h : (a.row : Nat) = b.row) : a = b := by
  cases a <;> cases b <;> first | rfl | (exact absurd h (by decide))
theorem ClassifierPortCounter.row_inj {a b : ClassifierPortCounter} (h : (a.row : Nat) = b.row) : a = b := by
  cases a <;> cases b <;> first | rfl | (exact absurd h (by decide))
theorem TimebaseCounter.row_inj {a b : TimebaseCounter} (h : (a.row : Nat) = b.row) : a = b := by
  cases a <;> cases b <;> first | rfl | (exact absurd h (by decide))
theorem DisciplineCounter.row_inj {a b : DisciplineCounter} (h : (a.row : Nat) = b.row) : a = b := by
  cases a <;> cases b <;> first | rfl | (exact absurd h (by decide))
theorem ClassifierChannelCounter.row_inj {a b : ClassifierChannelCounter} (h : (a.row : Nat) = b.row) : a = b := by
  cases a <;> cases b <;> first | rfl | (exact absurd h (by decide))
theorem TableCounter.row_inj {a b : TableCounter} (h : (a.row : Nat) = b.row) : a = b := by
  cases a <;> cases b <;> first | rfl | (exact absurd h (by decide))
theorem ExpiryCounter.row_inj {a b : ExpiryCounter} (h : (a.row : Nat) = b.row) : a = b := by
  cases a <;> cases b <;> first | rfl | (exact absurd h (by decide))
theorem LaneCounter.row_inj {a b : LaneCounter} (h : (a.row : Nat) = b.row) : a = b := by
  cases a <;> cases b <;> first | rfl | (exact absurd h (by decide))

theorem Counters.get_put_of_ne (cs : Counters) {m n : Counter} (v : Count) (h : m ≠ n) : (cs.put m v).get n = cs.get n := by
  cases m <;> cases n <;> simp only [Counters.get, Counters.put] <;> try rfl
  case port.port i a j b =>
    by_cases hi : (i : Nat) = j
    · obtain rfl : i = j := Fin.ext hi
      have : (a.row : Nat) ≠ b.row := fun e => h (by rw [PortCounter.row_inj e])
      simp [this]
    · simp [hi]
  case classifierPort.classifierPort i a j b =>
    by_cases hi : (i : Nat) = j
    · obtain rfl : i = j := Fin.ext hi
      have : (a.row : Nat) ≠ b.row := fun e => h (by rw [ClassifierPortCounter.row_inj e])
      simp [this]
    · simp [hi]
  case timebase.timebase a b =>
    have : (a.row : Nat) ≠ b.row := fun e => h (by rw [TimebaseCounter.row_inj e])
    simp [this]
  case discipline.discipline a b =>
    have : (a.row : Nat) ≠ b.row := fun e => h (by rw [DisciplineCounter.row_inj e])
    simp [this]
  case classifierChannel.classifierChannel i a j b =>
    by_cases hi : (i : Nat) = j
    · obtain rfl : i = j := Fin.ext hi
      have : (a.row : Nat) ≠ b.row := fun e => h (by rw [ClassifierChannelCounter.row_inj e])
      simp [this]
    · simp [hi]
  case table.table i a j b =>
    by_cases hi : (i : Nat) = j
    · obtain rfl : i = j := Fin.ext hi
      have : (a.row : Nat) ≠ b.row := fun e => h (by rw [TableCounter.row_inj e])
      simp [this]
    · simp [hi]
  case expiry.expiry i a j b =>
    by_cases hi : (i : Nat) = j
    · obtain rfl : i = j := Fin.ext hi
      have : (a.row : Nat) ≠ b.row := fun e => h (by rw [ExpiryCounter.row_inj e])
      simp [this]
    · simp [hi]
  case poolFull.poolFull => exact absurd rfl h
  case lane.lane i a j b =>
    by_cases hi : (i : Nat) = j
    · obtain rfl : i = j := Fin.ext hi
      have : (a.row : Nat) ≠ b.row := fun e => h (by rw [LaneCounter.row_inj e])
      simp [this]
    · simp [hi]

/-- After a reset every counter is 0. -/
@[simp] theorem Counters.reset_get (c : Counter) : Counters.reset.get c = 0 := by
  cases c <;> simp [Counters.get, Counters.reset]

/-- The counter that gains, and every other as it was. -/
@[simp] theorem State.bumpBy_get_self (s : State) (n : Counter) (k : Nat) :
    (s.bumpBy n k).counters.get n = s.counters.get n + BitVec.ofNat 64 k := by
  simp [State.bumpBy]

theorem State.bumpBy_get_of_ne (s : State) {m n : Counter} (k : Nat) (h : m ≠ n) :
    (s.bumpBy m k).counters.get n = s.counters.get n := by
  simp [State.bumpBy, Counters.get_put_of_ne _ _ h]

theorem State.bump_get_of_ne (s : State) {m n : Counter} (h : m ≠ n) :
    (s.bump m).counters.get n = s.counters.get n := State.bumpBy_get_of_ne s 1 h

end Sys2Proof.Machine
end

