-- ==== Sys2Proof/Laws/Discipline.lean ====
section
/-! SUPPORT. The discipline: which edges are accepted, and what setting CAUSE TIME on a change of state leaves alone. -/

namespace Sys2Proof.Machine

section
variable (s : State) (q : Quality)

theorem State.causeOnChange_eq : s.causeOnChange q = s ∨ s.causeOnChange q = s.setCause .time := by
  unfold State.causeOnChange; split
  · exact .inl rfl
  · exact .inr rfl

/-- CAUSE TIME on a change of state changes the Bus Interface only. -/
theorem State.causeOnChange_bus : s.causeOnChange q = { s with bus := (s.causeOnChange q).bus } := by
  rcases s.causeOnChange_eq q with h | h <;> rw [h]; rfl

@[simp] theorem State.causeOnChange_discipline : (s.causeOnChange q).discipline = s.discipline := by
  rw [s.causeOnChange_bus q]
@[simp] theorem State.causeOnChange_timebase : (s.causeOnChange q).timebase = s.timebase := by
  rw [s.causeOnChange_bus q]
@[simp] theorem State.causeOnChange_engine : (s.causeOnChange q).engine = s.engine := by
  rw [s.causeOnChange_bus q]
@[simp] theorem State.causeOnChange_count : (s.causeOnChange q).count = s.count := by
  rw [s.causeOnChange_bus q]
@[simp] theorem State.causeOnChange_offers : (s.causeOnChange q).offers = s.offers := by
  rw [s.causeOnChange_bus q]
@[simp] theorem State.causeOnChange_counters : (s.causeOnChange q).counters = s.counters := by
  rw [s.causeOnChange_bus q]
@[simp] theorem State.causeOnChange_pending : (s.causeOnChange q).pending = s.pending := by
  rw [s.causeOnChange_bus q]

end

/-! ### S handed over, and F under the servo -/

@[simp] theorem State.handSlewRate_slewRate (s : State) :
    s.handSlewRate.timebase.slewRate = s.discipline.active.slewRate := rfl
@[simp] theorem State.handSlewRate_discipline (s : State) : s.handSlewRate.discipline = s.discipline := rfl
@[simp] theorem State.handSlewRate_offers (s : State) : s.handSlewRate.offers = s.offers := rfl
@[simp] theorem State.handSlewRate_counters (s : State) : s.handSlewRate.counters = s.counters := rfl
@[simp] theorem State.handSlewRate_engine (s : State) : s.handSlewRate.engine = s.engine := rfl
@[simp] theorem State.handSlewRate_bus (s : State) : s.handSlewRate.bus = s.bus := rfl

/-- In HOLDOVER no edge moves F (R41). -/
theorem State.servoFreq_holdover (s : State) (change : Int) (h : s.discipline.state = .holdover) :
    s.servoFreq change = s.timebase.freq := if_pos h

/-- The F that the servo gives lies within its limits whenever the F before it did (R25, R35). -/
theorem State.servoFreq_inRange (s : State) (change : Int) (h : s.timebase.freq.natAbs ≤ Config.freqLimit) :
    (s.servoFreq change).natAbs ≤ Config.freqLimit := by
  unfold State.servoFreq clampFreq clampInt
  split
  · exact h
  · simp only [Config.freqLimit] at *; omega

/-- An edge is accepted in FREE and HOLDOVER, and otherwise within the window after the last accepted edge (R40). -/
theorem Discipline.accepts_iff (d : Discipline) (n : Count) :
    d.accepts n = true ↔ (d.state = .free ∨ d.state = .holdover) ∨
      ∃ last, d.lastAccepted = some last ∧ 399600000 ≤ (n - last).toNat ∧ (n - last).toNat ≤ 400400000 := by
  unfold Discipline.accepts
  cases d.state <;> cases d.lastAccepted <;>
    simp only [Config.edgeEarliest, Config.edgeLatest, reduceCtorEq, or_false, or_true, false_or, true_or, false_and,
      exists_false, Option.some.injEq, Bool.false_eq_true, exists_eq_left'] <;>
    exact decide_eq_true_iff

end Sys2Proof.Machine
end

