-- ==== Sys2Proof/Laws/Lanes.lean ====
section
/-! SUPPORT. The Lane Writers: what their operations change. -/

namespace Sys2Proof.Machine

/-- t is s after changes of lanes, staging, counters and CAUSE, reads and writes put out, and changes of the outstanding
reads and the slow-read flag. -/
inductive State.LaneOnly (s : State) : State → Prop
  | refl : State.LaneOnly s s
  | setLane {t : State} (h : State.LaneOnly s t) (l : LaneNo) (w : Lane) : State.LaneOnly s (t.setLane l w)
  | setStage {t : State} (h : State.LaneOnly s t) (l : LaneNo) (g : StagingLane) : State.LaneOnly s (t.setStage l g)
  | bumpBy {t : State} (h : State.LaneOnly s t) (c : Counter) (n : Nat) : State.LaneOnly s (t.bumpBy c n)
  | issueWrite {t : State} (h : State.LaneOnly s t) (runs : List Run) : State.LaneOnly s (t.issueWrite runs)
  | issueRead {t : State} (h : State.LaneOnly s t) (p : ReadPurpose) (a : Address) (n : Nat) :
      State.LaneOnly s (t.issueRead p a n)
  | setCause {t : State} (h : State.LaneOnly s t) (bit : CauseBit) : State.LaneOnly s (t.setCause bit)
  | disownReads {t : State} (h : State.LaneOnly s t) (which : ReadPurpose → Bool) : State.LaneOnly s (t.disownReads which)
  | dropRead {t : State} (h : State.LaneOnly s t) (tag : Nat) : State.LaneOnly s (t.dropRead tag)
  | noteAge {t : State} (h : State.LaneOnly s t) (r : ReadOp) : State.LaneOnly s (t.noteAge r)

theorem State.LaneOnly.trans {s t u : State} (h : s.LaneOnly t) (g : t.LaneOnly u) : s.LaneOnly u := by
  induction g with
  | refl => exact h
  | setLane _ l w ih => exact ih.setLane l w
  | setStage _ l g ih => exact ih.setStage l g
  | bumpBy _ c n ih => exact ih.bumpBy c n
  | issueWrite _ runs ih => exact ih.issueWrite runs
  | issueRead _ p a n ih => exact ih.issueRead p a n
  | setCause _ bit ih => exact ih.setCause bit
  | disownReads _ which ih => exact ih.disownReads which
  | dropRead _ tag ih => exact ih.dropRead tag
  | noteAge _ r ih => exact ih.noteAge r

/-- t is s after reads and writes put out, settings of CAUSE, and changes of the outstanding reads. -/
inductive State.BusOnly (s : State) : State → Prop
  | refl : State.BusOnly s s
  | issueWrite {t : State} (h : State.BusOnly s t) (runs : List Run) : State.BusOnly s (t.issueWrite runs)
  | issueRead {t : State} (h : State.BusOnly s t) (p : ReadPurpose) (a : Address) (n : Nat) :
      State.BusOnly s (t.issueRead p a n)
  | setCause {t : State} (h : State.BusOnly s t) (bit : CauseBit) : State.BusOnly s (t.setCause bit)
  | disownReads {t : State} (h : State.BusOnly s t) (which : ReadPurpose → Bool) : State.BusOnly s (t.disownReads which)
  | dropRead {t : State} (h : State.BusOnly s t) (tag : Nat) : State.BusOnly s (t.dropRead tag)
  | noteAge {t : State} (h : State.BusOnly s t) (r : ReadOp) : State.BusOnly s (t.noteAge r)

section
variable {s t : State} (h : s.BusOnly t)
include h

theorem State.BusOnly.toLane : s.LaneOnly t := by
  induction h with
  | refl => exact .refl
  | issueWrite _ runs ih => exact ih.issueWrite runs
  | issueRead _ p a n ih => exact ih.issueRead p a n
  | setCause _ bit ih => exact ih.setCause bit
  | disownReads _ which ih => exact ih.disownReads which
  | dropRead _ tag ih => exact ih.dropRead tag
  | noteAge _ r ih => exact ih.noteAge r

theorem State.BusOnly.eq : t = { s with bus := t.bus } := by
  induction h with
  | refl => rfl
  | issueWrite _ runs ih => rw [State.issueWrite]; split <;> rw [ih]
  | issueRead _ p a n ih => rw [State.issueRead]; split <;> rw [ih]
  | setCause _ bit ih => rw [State.setCause, ih]
  | disownReads _ which ih => rw [State.disownReads, ih]
  | dropRead _ tag ih => rw [State.dropRead, ih]
  | noteAge _ r ih => rw [State.noteAge, ih]

theorem State.BusOnly.writeAt (a : Address) (bs : List Byte) : s.BusOnly (t.writeAt a bs) := h.issueWrite _
theorem State.BusOnly.writeArea (o : Nat) (bs : List Byte) : s.BusOnly (t.writeArea o bs) := by
  unfold State.writeArea; split
  · exact h
  · exact h.writeAt _ _

end

section
variable {s t : State} (h : s.LaneOnly t)
include h

theorem State.LaneOnly.eq :
    t = { s with staging := t.staging, lanes := t.lanes, counters := t.counters
                 bus := { s.bus with cause := t.bus.cause, log := t.bus.log, reads := t.bus.reads
                                     nextTag := t.bus.nextTag, slowRead := t.bus.slowRead } } := by
  induction h with
  | refl => rfl
  | setLane _ l w ih => rw [State.setLane, ih]
  | setStage _ l g ih => rw [State.setStage, ih]
  | bumpBy _ c n ih => rw [State.bumpBy, ih]
  | issueWrite _ runs ih => rw [State.issueWrite]; split <;> rw [ih]
  | issueRead _ p a n ih => rw [State.issueRead]; split <;> rw [ih]
  | setCause _ bit ih => rw [State.setCause, BusInterface.withMessage_eq, ih]
  | disownReads _ which ih => rw [State.disownReads, ih]
  | dropRead _ tag ih => rw [State.dropRead, ih]
  | noteAge _ r ih => rw [State.noteAge, ih]

theorem State.LaneOnly.emits : s.bus.Emits t.bus := by
  induction h with
  | refl => exact .refl _
  | setLane _ _ _ ih | setStage _ _ _ ih | bumpBy _ _ _ ih => exact ih
  | issueWrite _ runs ih => exact ih.trans (State.emits_issueWrite _ runs)
  | issueRead _ p a n ih => exact ih.trans (State.emits_issueRead _ p a n)
  | setCause _ bit ih => exact ih.trans (State.emits_setCause _ bit)
  | disownReads _ _ ih | dropRead _ _ ih | noteAge _ _ ih => exact ih.trans (.of_same rfl rfl rfl id)

/-- In the FAULTED state, where no read is outstanding, none comes to be. -/
theorem State.LaneOnly.noReads (f : s.bus.faulted = true) (n : s.bus.reads = []) : t.bus.reads = [] := by
  have faulted : ∀ {u : State}, s.LaneOnly u → u.bus.faulted = true := fun g => by rw [g.eq]; exact f
  induction h with
  | refl => exact n
  | setLane _ _ _ ih | setStage _ _ _ ih | bumpBy _ _ _ ih | noteAge _ _ ih => exact ih
  | issueWrite g _ ih => rw [State.issueWrite, if_pos (faulted g)]; exact ih
  | issueRead g _ _ _ ih => rw [State.issueRead, if_pos (faulted g)]; exact ih
  | setCause _ _ ih => rw [State.setCause, BusInterface.withMessage_eq]; exact ih
  | disownReads _ _ ih => rw [State.disownReads]; exact (by rw [ih]; rfl)
  | dropRead _ _ ih => rw [State.dropRead]; exact (by rw [ih]; rfl)

theorem State.LaneOnly.engine : t.engine = s.engine := by rw [h.eq]
theorem State.LaneOnly.areaBase : t.bus.areaBase = s.bus.areaBase := by rw [h.eq]
theorem State.LaneOnly.faulted : t.bus.faulted = s.bus.faulted := by rw [h.eq]
theorem State.LaneOnly.snapshot : t.bus.snapshot = s.bus.snapshot := by rw [h.eq]

theorem State.LaneOnly.bump (c : Counter) : s.LaneOnly (t.bump c) := h.bumpBy c 1
theorem State.LaneOnly.writeAt (a : Address) (bs : List Byte) : s.LaneOnly (t.writeAt a bs) := h.issueWrite _
theorem State.LaneOnly.writeArea (o : Nat) (bs : List Byte) : s.LaneOnly (t.writeArea o bs) := by
  unfold State.writeArea; split
  · exact h
  · exact h.writeAt _ _

theorem State.LaneOnly.readOwner (l : LaneNo) : s.LaneOnly (readOwner l t) := by
  unfold Machine.readOwner; dsimp only; split
  · exact (h.setLane _ _).issueRead _ _ _
  · exact h
theorem State.LaneOnly.seekPage (l : LaneNo) : s.LaneOnly (seekPage l t) := by
  unfold Machine.seekPage; dsimp only; split
  · exact h.readOwner l
  · exact h
theorem State.LaneOnly.notifyClose (l : LaneNo) : s.LaneOnly (notifyClose l t) := by
  unfold Machine.notifyClose; dsimp only; split
  · exact (h.setLane _ _).setCause _
  · exact h.setLane _ _
theorem State.LaneOnly.closePage (l : LaneNo) (reason : CloseReason) : s.LaneOnly (closePage l reason t) := by
  unfold Machine.closePage; dsimp only; split
  · exact (((((h.writeAt _ _).writeAt _ _).setLane _ _).bump _).writeArea _ _).notifyClose l
  · exact h
theorem State.LaneOnly.writeHead (l : LaneNo) : s.LaneOnly (writeHead l t) := by
  unfold Machine.writeHead; dsimp only; split
  · exact (((h.writeAt _ _).setLane _ _).setStage _ _).bump _
  · exact h
  · exact h
theorem State.LaneOnly.writeNext (l : LaneNo) : s.LaneOnly (writeNext l t) := by
  unfold Machine.writeNext; split
  · split
    · exact h.writeHead l
    · exact (h.closePage l _).seekPage l
  · exact h
  · exact h
theorem State.LaneOnly.takePage (l : LaneNo) (a : Address) : s.LaneOnly (takePage l a t) := (h.setLane _ _).writeHead l
theorem State.LaneOnly.announceRest (l : LaneNo) : s.LaneOnly (announceRest l t) := by
  unfold Machine.announceRest; split
  · exact h.setCause _
  · exact h
theorem State.LaneOnly.formDropped (l : LaneNo) : s.LaneOnly (formDropped l t) := by
  unfold Machine.formDropped; dsimp only; split
  · exact h.setStage _ _
  · exact h
  · exact h
theorem State.LaneOnly.admitRecord (l : LaneNo) (r : Record) : s.LaneOnly (admitRecord l r t) := by
  unfold Machine.admitRecord; split
  · exact (h.formDropped l).setStage _ _
  · exact h.setStage _ _
theorem State.LaneOnly.dropRecord (l : LaneNo) (r : Record) : s.LaneOnly (dropRecord l r t) := (h.setStage _ _).bump _
theorem State.LaneOnly.takeOffer (o : Offer) : s.LaneOnly (takeOffer o t) := by
  unfold Machine.takeOffer; split
  · exact h.bump _
  · exact h.bump _
  · split
    · exact h.admitRecord _ _
    · exact h.dropRecord _ _
  · split
    · exact h.admitRecord _ _
    · exact h.dropRecord _ _
  · exact h.dropRecord _ _
theorem State.LaneOnly.lingerEnd (l : LaneNo) : s.LaneOnly (lingerEnd l t) := (h.closePage l _).seekPage l
theorem State.LaneOnly.holdoffEnd (l : LaneNo) : s.LaneOnly (holdoffEnd l t) := by
  unfold Machine.holdoffEnd; dsimp only; split
  · exact (h.setLane _ _).setCause _
  · exact h.setLane _ _
theorem State.LaneOnly.reread (l : LaneNo) : s.LaneOnly (reread l t) := by
  unfold Machine.reread; split
  · exact h.readOwner l
  · exact h

end

/-- The addresses of a page list, by their places in its bytes (R137). -/
theorem pageList_eq (n : Nat) (bytes : List Byte) :
    pageList n bytes = (List.range n).map fun i => BitVec.ofNat 64 (leNat (fieldAt bytes (8 * i) 8)) := by
  induction n generalizing bytes with
  | zero => rfl
  | succ n ih =>
    rw [pageList, ih, List.range_succ_eq_map, List.map_cons, List.map_map]
    refine congrArg₂ List.cons rfl (List.map_congr_left fun i _ => ?_)
    simp only [fieldAt, List.drop_drop, Function.comp_apply]
    rw [show 8 + 8 * i = 8 * i.succ by omega]

end Sys2Proof.Machine
end

