-- ==== Sys2Proof/Laws/Maps.lean ====
section
/-! SUPPORT. The address maps: what a lookup finds, and what an installation and a removal change. -/

namespace Sys2Proof.Machine

/-! ### Lookups -/

/-- A lookup that finds an index: an entry of the key stands there. -/
theorem mapIndex_some {m : AddressMap} {key : Key} {i : Fin 64} (h : mapIndex m key = some i) :
    ∃ e, m[i] = some e ∧ e.key = key := by
  have := List.find?_some h
  simp only [decide_eq_true_eq, Option.map_eq_some_iff] at this
  exact this

/-- A lookup that finds none: no entry of the key stands anywhere. -/
theorem mapIndex_none {m : AddressMap} {key : Key} :
    mapIndex m key = none ↔ ∀ (i : Fin 64) (e : MapEntry), m[i] = some e → e.key ≠ key := by
  simp only [mapIndex, List.find?_eq_none, List.mem_finRange, true_implies, decide_eq_true_eq, Option.map_eq_some_iff]
  constructor
  · intro h i e g k
    exact h i ⟨e, g, k⟩
  · rintro h i ⟨e, g, k⟩
    exact h i e g k

/-- Maps that hold a key at the same places give the same lookup. -/
theorem mapIndex_congr {m n : AddressMap} {key : Key}
    (h : ∀ i : Fin 64, m[i].map MapEntry.key = some key ↔ n[i].map MapEntry.key = some key) :
    mapIndex m key = mapIndex n key := by
  unfold mapIndex
  congr 1
  funext i
  exact decide_eq_decide.mpr (h i)

/-- The entry found stands at the index found. -/
theorem mapEntry_eq {m : AddressMap} {key : Key} {i : Fin 64} (h : mapIndex m key = some i) : mapEntry m key = m[i] := by
  simp [mapEntry, h]

theorem mapEntry_none {m : AddressMap} {key : Key} : mapEntry m key = none ↔ mapIndex m key = none := by
  cases h : mapIndex m key with
  | none => simp [mapEntry, h]
  | some i =>
    obtain ⟨e, g, _⟩ := mapIndex_some h
    rw [mapEntry_eq h, g]
    simp

/-- The entry found has the key looked for. -/
theorem mapEntry_key {m : AddressMap} {key : Key} {e : MapEntry} (h : mapEntry m key = some e) : e.key = key := by
  cases g : mapIndex m key with
  | none => rw [mapEntry_none.mpr g] at h; cases h
  | some i =>
    obtain ⟨x, hx, hk⟩ := mapIndex_some g
    rw [mapEntry_eq g, hx] at h
    cases h
    exact hk

/-- The lowest free index is free. -/
theorem lowestFree_some {m : AddressMap} {i : Fin 64} (h : lowestFree m = some i) : m[i] = none := by
  have := List.find?_some h
  simpa using this

/-! ### One index changed -/

theorem mapSet_get (m : AddressMap) (i j : Fin 64) (x : Option MapEntry) :
    (m.set i x)[j] = if i = j then x else m[j] := by
  by_cases h : i = j
  · subst h; simp
  · have : (i : Nat) ≠ j := fun e => h (Fin.ext e)
    simp [h, this]

/-- A key that neither the old nor the new content of an index holds is looked up as before. -/
theorem mapEntry_set_of_ne (m : AddressMap) (i : Fin 64) (x : Option MapEntry) (key : Key)
    (old : m[i].map MapEntry.key ≠ some key) (new : x.map MapEntry.key ≠ some key) :
    mapIndex (m.set i x) key = mapIndex m key ∧ mapEntry (m.set i x) key = mapEntry m key := by
  have e : mapIndex (m.set i x) key = mapIndex m key := by
    apply mapIndex_congr
    intro j
    rw [mapSet_get]
    by_cases h : i = j
    · subst h; rw [if_pos rfl]; exact iff_of_false new old
    · simp [h]
  refine ⟨e, ?_⟩
  cases g : mapIndex m key with
  | none => rw [mapEntry_none.mpr g, mapEntry_none.mpr (e.trans g)]
  | some j =>
    rw [mapEntry_eq g, mapEntry_eq (e.trans g), mapSet_get, if_neg]
    rintro rfl
    obtain ⟨y, hy, hk⟩ := mapIndex_some g
    exact old (by rw [hy]; simp [hk])

/-! ### Installation -/

/-- A map that does not hold an entry's key and has room: the key hits the entry at the lowest free index. -/
theorem mapInstall_fresh (m : AddressMap) (e : MapEntry) (i : Fin 64) (none' : mapIndex m e.key = none)
    (free : lowestFree m = some i) :
    mapInstall m e = m.set i (some e) ∧ mapIndex (mapInstall m e) e.key = some i
      ∧ mapEntry (mapInstall m e) e.key = some e := by
  have eq : mapInstall m e = m.set i (some e) := by simp [mapInstall, none', free]
  have idx : mapIndex (m.set i (some e)) e.key = some i := by
    cases h : mapIndex (m.set i (some e)) e.key with
    | none => exact absurd rfl (mapIndex_none.mp h i e (by simp))
    | some j =>
      obtain ⟨x, hx, hk⟩ := mapIndex_some h
      rw [mapSet_get] at hx
      by_cases ij : i = j
      · rw [ij]
      · rw [if_neg ij] at hx
        exact absurd hk (mapIndex_none.mp none' j x hx)
  rw [eq]
  exact ⟨rfl, idx, by rw [mapEntry_eq idx]; simp⟩

/-- A map that holds an entry's key stays as it is. -/
theorem mapInstall_held (m : AddressMap) (e : MapEntry) (i : Fin 64) (h : mapIndex m e.key = some i) :
    mapInstall m e = m := by simp [mapInstall, h]

/-- With no conflict and no full map, an installation makes the key hit the entry, and leaves every other key and
every occupied index alone. -/
theorem mapInstall_spec (m : AddressMap) (e : MapEntry) (conflict : mapConflicts m e = false)
    (full : mapFull m e.key = false) :
    (∀ key, mapEntry (mapInstall m e) key = if key = e.key then some e else mapEntry m key)
      ∧ (mapEntry m e.key = none → mapIndex (mapInstall m e) e.key = lowestFree m)
      ∧ (∀ (i : Fin 64) (held : MapEntry), m[i] = some held → (mapInstall m e)[i] = some held)
      ∧ (mapIndex (mapInstall m e) e.key).isSome := by
  cases h : mapIndex m e.key with
  | some i =>
    obtain ⟨x, hx, hk⟩ := mapIndex_some h
    have xe : x = e := by
      have : mapEntry m e.key = some x := (mapEntry_eq h).trans hx
      simp only [mapConflicts, this, decide_eq_false_iff_not, not_or, not_not] at conflict
      cases x; cases e; simp_all
    rw [mapInstall_held m e i h]
    refine ⟨fun key => ?_, fun g => ?_, fun _ _ g => g, by simp [h]⟩
    · by_cases k : key = e.key
      · rw [if_pos k, k, mapEntry_eq h, hx, xe]
      · rw [if_neg k]
    · rw [mapEntry_none.mp g] at h; cases h
  | none =>
    cases g : lowestFree m with
    | none => simp [mapFull, h, g] at full
    | some i =>
      obtain ⟨eq, idx, hit⟩ := mapInstall_fresh m e i h g
      have free := lowestFree_some g
      refine ⟨fun key => ?_, fun _ => idx, fun j held hj => ?_, by simp [idx]⟩
      · by_cases k : key = e.key
        · rw [if_pos k, k, hit]
        · rw [if_neg k, eq]
          exact (mapEntry_set_of_ne m i (some e) key (by simp [free]) (by simpa using fun h => k h.symm)).2
      · rw [eq, mapSet_get, if_neg]
        · exact hj
        · rintro rfl; rw [free] at hj; cases hj

/-! ### Removal -/

/-- In a map where no key stands twice, a removal makes the key hit nothing, and leaves every other key alone. -/
theorem mapDelete_spec (m : AddressMap) (key : Key)
    (once : ∀ (i j : Fin 64) (a b : MapEntry), m[i] = some a → m[j] = some b → a.key = b.key → i = j) (other : Key) :
    mapEntry (mapDelete m key) other = if other = key then none else mapEntry m other := by
  cases h : mapIndex m key with
  | none =>
    have : mapDelete m key = m := by simp [mapDelete, h]
    rw [this]
    split
    · rename_i k; rw [k, mapEntry_none.mpr h]
    · rfl
  | some i =>
    obtain ⟨x, hx, hk⟩ := mapIndex_some h
    have eq : mapDelete m key = m.set i none := by simp [mapDelete, h]
    rw [eq]
    split
    · rename_i k
      rw [mapEntry_none, mapIndex_none]
      intro j y hy hyk
      rw [mapSet_get] at hy
      by_cases ij : i = j
      · rw [if_pos ij] at hy; cases hy
      · rw [if_neg ij] at hy
        exact ij (once i j x y hx hy (by rw [hk, hyk, k]))
    · rename_i k
      refine (mapEntry_set_of_ne m i none other ?_ (by simp)).2
      rw [hx]
      simp only [Option.map_some, ne_eq, Option.some.injEq]
      intro e
      exact k (e.symm.trans hk)

/-! ### The maps of a set of ports -/

/-- A change of the maps of a set of ports in which no port stands twice. -/
theorem changeMaps_map (ports : List PortNo) (change : AddressMap → AddressMap) (s : State) (k : PortNo)
    (once : ports.Nodup) : (changeMaps ports change s).map k = if k ∈ ports then change (s.map k) else s.map k := by
  induction ports generalizing s with
  | nil => rfl
  | cons p ps ih =>
    have step : changeMaps (p :: ps) change s = changeMaps ps change (s.setMap p (change (s.map p))) := rfl
    rw [List.nodup_cons] at once
    rw [step, ih _ once.2]
    by_cases h : k = p
    · subst h; simp [once.1]
    · rw [State.setMap_map_of_ne _ _ (Ne.symm h)]
      simp [h]

/-- Only the maps change. -/
theorem changeMaps_eq (ports : List PortNo) (change : AddressMap → AddressMap) (s : State) :
    changeMaps ports change s = { s with maps := (changeMaps ports change s).maps } := by
  induction ports generalizing s with
  | nil => rfl
  | cons p ps ih =>
    have step : changeMaps (p :: ps) change s = changeMaps ps change (s.setMap p (change (s.map p))) := rfl
    rw [step, ih]
    rfl

/-- A port set names no port twice. -/
theorem portSet_nodup (bits : Nat) : (portSet bits).Nodup := (List.nodup_finRange 8).filter _

/-- A port set lists its ports in rising order. -/
theorem portSet_sorted (bits : Nat) : (portSet bits).Pairwise (· < ·) :=
  (List.pairwise_lt_finRange 8).filter _

end Sys2Proof.Machine
end

