-- ==== Sys2Proof/Laws/Records.lean ====
section
/-! SUPPORT. The layouts of the records: their fields fit, so that each reads back. -/

namespace Sys2Proof.Machine

/-- The fields of a record as it is written (R164 to R169). -/
def Record.allFields (r : Record) (serial : BitVec 32) : List (Nat × List Byte) :=
  r.commonFields serial ++
    match r with
    | .dropped d => d.fields
    | r => r.sourceFields ++ r.ownFields

theorem Record.encode_eq (r : Record) (serial : BitVec 32) : r.encode serial = layout r.length (r.allFields serial) := rfl

theorem le_roundUp8 (n : Nat) : n ≤ roundUp8 n := by unfold roundUp8; omega

/-- The places of the fields of an ARRIVAL record before its captured bytes. -/
def arrivalPlaces : List (Nat × Nat) :=
  [(0, 1), (1, 1), (2, 2), (4, 4), (14, 2), (16, 4), (20, 4), (8, 2), (10, 1), (11, 1), (12, 2), (24, 1), (25, 1), (26, 2),
   (28, 2), (30, 2), (32, 8), (40, 8), (48, 2), (56, 8)]

/-- No two fields of a record overlap, and all lie within its length. -/
theorem Record.fits (r : Record) (serial : BitVec 32) : Fits r.length (r.allFields serial) := by
  cases r with
  | arrival x =>
    have e : places (Record.allFields (.arrival x) serial) = arrivalPlaces ++ [(64, x.captured.length)] := by
      simp only [places, Record.allFields, Record.commonFields, Record.sourceFields, Record.ownFields,
        List.map_cons, List.map_nil, leBytes_length, arrivalPlaces, List.cons_append, List.nil_append]
    refine fits_of_places e ⟨?_, ?_⟩
    · have low : ∀ p ∈ arrivalPlaces, p.1 + p.2 ≤ 64 := by decide
      intro p hp
      rcases List.mem_append.mp hp with h | h
      · exact Nat.le_trans (low p h) (Nat.le_add_right ..)
      · rw [List.mem_singleton.mp h]
        exact Nat.add_le_add_left (le_roundUp8 _) 64
    · rw [List.pairwise_append]
      refine ⟨by decide, List.pairwise_singleton .., ?_⟩
      intro p hp q hq
      rw [List.mem_singleton.mp hq]
      have low : ∀ p ∈ arrivalPlaces, p.1 + p.2 ≤ 64 := by decide
      exact .inl (low p hp)
  | partner x | gap x | lineMiss x | resync x | dropped x | step x | port x | time x =>
    exact fits_of_places
      (by simp only [places, Record.allFields, Record.commonFields, Record.sourceFields, Record.ownFields,
            DroppedRecord.fields, List.map_cons, List.map_nil, leBytes_length, leInt_length,
            List.cons_append, List.nil_append]; rfl)
      (by simp only [Record.length]; decide)

/-- A record's bytes are as many as its length says. -/
@[simp] theorem Record.length_encode (r : Record) (serial : BitVec 32) : (r.encode serial).length = r.length :=
  layout_length_of_fits _ _ (r.fits serial)

/-- Each field of a record stands at its offset. -/
theorem Record.fieldAt_encode (r : Record) (serial : BitVec 32) {offset : Nat} {bytes : List Byte}
    (h : (offset, bytes) ∈ r.allFields serial) : fieldAt (r.encode serial) offset bytes.length = bytes :=
  fieldAt_layout (r.fits serial) h

end Sys2Proof.Machine
end

