-- ==== Sys2Proof/Laws/Requests.lean ====
section
/-! SUPPORT. Requests: an owner carries out what it was handed, and its result as bytes. -/

namespace Sys2Proof.Machine

/-- A request that the engine holds for a code is carried out by that code's owner. -/
theorem State.Holds.carryOut {s : State} {code : Nat} {slot : List Byte} (h : s.Holds code slot)
    (act : List Byte → State → State) : s.carryOut code act = act slot s.begun := by
  simp only [State.carryOut, h.2.1, h.2.2, if_true]

/-- With no slot of its code handed to it, an owner leaves the state as it is. -/
theorem State.carryOut_of_not_handed {s : State} {code : Nat} (act : List Byte → State → State)
    (h : ∀ slot : List Byte, s.engine.handed = some slot → slotCode slot ≠ code) : s.carryOut code act = s := by
  unfold State.carryOut
  split
  · exact if_neg (h _ ‹_›)
  · rfl

/-- An owner carries out a slot of its code whatever the engine's state. -/
theorem State.carryOut_of_handed {s : State} {code : Nat} {slot : List Byte} (act : List Byte → State → State)
    (h : s.engine.handed = some slot) (hc : slotCode slot = code) : s.carryOut code act = act slot s.begun := by
  simp only [State.carryOut, h, hc, if_true]

/-- The engine still waits when its request is carried out. -/
theorem State.Holds.busy {s : State} {code : Nat} {slot : List Byte} (h : s.Holds code slot) :
    s.begun.engine.state = .busy := h.1

/-- The result of a request with its fields in rising order: their concatenation, zero bytes in the gaps. -/
theorem resultOf_eq (fs : List (Nat × List Byte)) (h : Ordered 16 0 (fs.map fun f => (f.1 - 48, f.2))) :
    resultOf fs = filled 16 0 (fs.map fun f => (f.1 - 48, f.2)) := layout_eq_filled _ _ h

/-- The result without fields. -/
@[simp] theorem resultOf_nil : resultOf [] = zeros 16 := rfl

/-- An answer while the engine waits and nothing is handed. -/
theorem State.answerWith_eq (s : State) (o : ReqOutcome) (fs : List (Nat × List Byte)) (b : s.engine.state = .busy)
    (h : s.engine.handed = none) : s.answerWith o fs = s.returns o (resultOf fs) := by
  simp [State.answerWith, State.returns, b, h]

/-- An answer in the state in which an owner has begun. -/
theorem State.begun_answerWith (s : State) (o : ReqOutcome) (fs : List (Nat × List Byte)) (b : s.engine.state = .busy) :
    s.begun.answerWith o fs = s.returns o (resultOf fs) := State.answerWith_eq s.begun o fs b rfl

@[simp] theorem State.begun_returns (s : State) (o : ReqOutcome) (r : List Byte) :
    s.begun.returns o r = s.returns o r := rfl

theorem slotField_lt (slot : List Byte) (offset length : Nat) : slotField slot offset length < 256 ^ length :=
  leNat_fieldAt_lt slot offset length

theorem slotField_one_lt (slot : List Byte) (offset : Nat) : slotField slot offset 1 < 256 := slotField_lt slot offset 1
theorem slotField_two_lt (slot : List Byte) (offset : Nat) : slotField slot offset 2 < 65536 :=
  slotField_lt slot offset 2
theorem slotField_four_lt (slot : List Byte) (offset : Nat) : slotField slot offset 4 < 4294967296 :=
  slotField_lt slot offset 4
theorem slotField_eight_lt (slot : List Byte) (offset : Nat) : slotField slot offset 8 < 18446744073709551616 :=
  slotField_lt slot offset 8

end Sys2Proof.Machine
end

