-- ==== Sys2Proof/Laws/Table.lean ====
section
/-! SUPPORT. The Arbitration Table: what its operations change, and what each of its cases comes to. -/

namespace Sys2Proof.Machine

/-! ### What the Table's operations leave alone -/

/-- t is s but for the channels, the pool, the creation order, the offers and the counters. -/
def State.TableOnly (s t : State) : Prop :=
  t = { s with channels := t.channels, entries := t.entries, nextOrder := t.nextOrder, offers := t.offers
               counters := t.counters }

theorem State.TableOnly.refl (s : State) : s.TableOnly s := rfl

theorem State.TableOnly.trans {s t u : State} (h : s.TableOnly t) (g : t.TableOnly u) : s.TableOnly u := by
  rw [State.TableOnly] at h g ⊢
  rw [g, h]

section
variable {s t : State} (h : s.TableOnly t)
include h

theorem State.TableOnly.waitingOf (k : PortNo) : t.waitingOf k = s.waitingOf k := by rw [h]; rfl
theorem State.TableOnly.inputOf (k : PortNo) : t.inputOf k = s.inputOf k := by rw [h]; rfl
theorem State.TableOnly.count : t.count = s.count := by rw [h]
theorem State.TableOnly.reading : t.reading = s.reading := by rw [h]; rfl
theorem State.TableOnly.port (k : PortNo) : t.port k = s.port k := by rw [h]; rfl
theorem State.TableOnly.lane (l : LaneNo) : t.lane l = s.lane l := by rw [h]; rfl
theorem State.TableOnly.stage (l : LaneNo) : t.stage l = s.stage l := by rw [h]; rfl
theorem State.TableOnly.timebase : t.timebase = s.timebase := by rw [h]
theorem State.TableOnly.discipline : t.discipline = s.discipline := by rw [h]
theorem State.TableOnly.engine : t.engine = s.engine := by rw [h]
theorem State.TableOnly.bus : t.bus = s.bus := by rw [h]
theorem State.TableOnly.pending : t.pending = s.pending := by rw [h]

theorem State.TableOnly.offer (l : LaneNo) (x : Source) (r : Record) : s.TableOnly (t.offer l x r) :=
  h.trans rfl
theorem State.TableOnly.bumpBy (c : Counter) (n : Nat) : s.TableOnly (t.bumpBy c n) := h.trans rfl
theorem State.TableOnly.bump (c : Counter) : s.TableOnly (t.bump c) := h.bumpBy c 1
theorem State.TableOnly.setChannel (ch : ChannelNo) (x : Channel) : s.TableOnly (t.setChannel ch x) := h.trans rfl
theorem State.TableOnly.withEntries (es : List Entry) : s.TableOnly { t with entries := es } := h.trans rfl
theorem State.TableOnly.setNext (ch : ChannelNo) (n : Option Nat) : s.TableOnly (setNext ch n t) :=
  h.setChannel ch _
theorem State.TableOnly.offerOwn (f : Classified) (r : Record) : s.TableOnly (offerOwn f r t) := h.offer _ _ _
theorem State.TableOnly.createEntry (e : Entry) : s.TableOnly (createEntry e t) := h.trans rfl
theorem State.TableOnly.reportEntry (e : Entry) (why : Removal) (by' : Option FrameTag) :
    s.TableOnly (reportEntry e why by' t) := (h.offer _ _ _).bump _
theorem State.TableOnly.removeEntry (e : Entry) (why : Removal) (by' : Option FrameTag) :
    s.TableOnly (removeEntry e why by' t) := (h.withEntries _).reportEntry e why by'
theorem State.TableOnly.evictEntry (e : Entry) (by' : FrameTag) : s.TableOnly (evictEntry e by' t) :=
  (h.removeEntry e _ _).bump _
theorem State.TableOnly.emitAtOnce (by' : FrameTag) (e : Entry) : s.TableOnly (emitAtOnce by' e t) := (h.reportEntry e _ _).bump _

theorem State.TableOnly.flushEntries (by' : Option FrameTag) (es : List Entry) :
    s.TableOnly (flushEntries by' es t) := by
  induction es generalizing t with
  | nil => exact h
  | cons e es ih => exact ih (h.removeEntry e .flushed by')

theorem State.TableOnly.requestEntry (by' : FrameTag) (e : Entry) (filling : Option (BitVec 32)) :
    s.TableOnly (requestEntry by' e filling t) := by
  unfold Machine.requestEntry
  split
  · split
    · exact (h.evictEntry _ _).createEntry _
    · exact h.emitAtOnce _ _
  · split
    · split
      · exact ((h.evictEntry _ _).bump _).createEntry _
      · exact h.emitAtOnce _ _
    · exact h.createEntry _

theorem State.TableOnly.publish (f : Classified) (flags : ArrivalFlags) (first k : Nat)
    (filling : Option (BitVec 32)) : s.TableOnly (publish f flags first k filling t) := by
  unfold Machine.publish
  dsimp only
  split
  · exact ((h.requestEntry _ _ _).offerOwn _ _).bump _
  · exact (h.offerOwn _ _).bump _

theorem State.TableOnly.passOver (f : Classified) (next newNext : Nat) : s.TableOnly (passOver f next newNext t) :=
  h.flushEntries _ _

theorem State.TableOnly.revealGap (f : Classified) (modulus next a : Nat) :
    s.TableOnly (revealGap f modulus next a t) := (h.passOver _ _ _).requestEntry _ _ _

theorem State.TableOnly.rejectFrame (f : Classified) (flags : ArrivalFlags) : s.TableOnly (rejectFrame f flags t) := by
  unfold Machine.rejectFrame
  split
  · exact h.offerOwn _ _
  · exact h

theorem State.TableOnly.heartbeatRecord (f : Classified) (flags : ArrivalFlags) :
    s.TableOnly (heartbeatRecord f flags t) := h.offerOwn _ _

theorem State.TableOnly.takeResync (f : Classified) (modulus next : Nat) (d : Direction) :
    s.TableOnly (takeResync f modulus next d t) := by
  unfold Machine.takeResync
  dsimp only
  refine State.TableOnly.bump (State.TableOnly.setNext ?_ _ _) _
  split
  · exact ((h.flushEntries _ _).offerOwn _ _).heartbeatRecord _ _
  · exact ((h.flushEntries _ _).offerOwn _ _).publish _ _ _ _ _

theorem State.TableOnly.takeHeartbeat (f : Classified) (modulus next : Nat) :
    s.TableOnly (takeHeartbeat f modulus next t) := by
  unfold Machine.takeHeartbeat
  dsimp only
  split
  · exact h.takeResync ..
  · split
    · exact h.heartbeatRecord _ _
    · split
      · exact ((h.revealGap ..).heartbeatRecord _ _).setNext _ _
      · exact (h.heartbeatRecord _ _).bump _

theorem State.TableOnly.takeFill (f : Classified) (e : Entry) (modulus : Nat) :
    s.TableOnly (takeFill f e modulus t) := by
  unfold Machine.takeFill
  dsimp only
  split
  · exact (h.withEntries _).publish ..
  · split
    · exact (h.withEntries _).publish ..
    · split
      · exact (h.withEntries _).publish ..
      · exact ((h.withEntries _).requestEntry _ _ _).publish ..

theorem State.TableOnly.takeBehind (f : Classified) (modulus : Nat) : s.TableOnly (takeBehind f modulus t) := by
  unfold Machine.takeBehind
  split
  · split
    · exact h.takeFill ..
    · split
      · exact (h.bump _).rejectFrame _ _
      · exact ((h.offerOwn _ _).withEntries _).bump _
  · exact (h.bump _).rejectFrame _ _

/-- Arbitration changes channels, the pool, the creation order, the offers and the counters only. -/
theorem State.TableOnly.arbitrate (f : Classified) : s.TableOnly (arbitrate f t) := by
  unfold Machine.arbitrate
  dsimp only
  split
  · unfold takeStart
    split
    · exact (h.heartbeatRecord _ _).setNext _ _
    · exact (h.publish ..).setNext _ _
  · exact h.takeHeartbeat ..
  · exact ((h.passOver ..).publish ..).setNext _ _
  · exact ((h.revealGap ..).publish ..).setNext _ _
  · exact h.takeResync ..
  · exact ((h.passOver ..).publish ..).setNext _ _
  · exact h.takeBehind ..

/-- So does the stop of a channel. -/
theorem State.TableOnly.stopChannel (ch : ChannelNo) : s.TableOnly (stopChannel ch t) :=
  (h.flushEntries _ _).setChannel _ _

end

/-! ### A frame taken -/

/-- A frame of an OFF channel or of an ended run. -/
theorem takeClassified_ended (f : Classified) (s : State)
    (h : (s.channel f.channel).on = false ∨ (s.channel f.channel).run ≠ f.run) :
    takeClassified f s = s.bump (.classifierChannel f.channel .stopDiscards) := if_pos h

/-- A frame of its channel's present run. -/
theorem takeClassified_current (f : Classified) (s : State) (on : (s.channel f.channel).on = true)
    (run : (s.channel f.channel).run = f.run) : takeClassified f s = arbitrate f s :=
  if_neg (by simp [on, run])

/-- A frame of its channel's present run, taken from a port behind which none waits. -/
theorem takeInput_current (k : PortNo) (f : Classified) (s : State) (h : s.inputOf k = some f)
    (w : s.waitingOf k = none) (on : (s.channel f.channel).on = true) (run : (s.channel f.channel).run = f.run) :
    takeInput k s = arbitrate f (s.setInput k none) := by
  have e : takeClassified f (s.setInput k none) = arbitrate f (s.setInput k none) :=
    takeClassified_current f _ on run
  have w' := ((State.TableOnly.refl (s.setInput k none)).arbitrate f).waitingOf k
  simp only [State.setInput_waitingOf, w] at w'
  simp only [takeInput, h, e, refillInput, w']

/-! ### Sequence arithmetic -/

theorem ChannelSettings.modulus_pos (c : ChannelSettings) : 0 < c.modulus := Nat.two_pow_pos _

/-- A sequence number stands 0 behind itself. -/
theorem behindBy_self (m a : Nat) (h : 0 < m) : behindBy m a a = 0 := by
  have e : a + (m - a % m) = m * (a / m + 1) := by
    have := Nat.mod_lt a h
    have := Nat.div_add_mod a m
    rw [Nat.mul_add]
    omega
  rw [behindBy, e, Nat.mul_mod_right]

theorem behindBy_lt (m a b : Nat) (h : 0 < m) : behindBy m a b < m := Nat.mod_lt _ h

/-! ### Entries passed over -/

/-- No entry of the channel would lie more than half the modulus behind the new NextSeq: none is passed over. -/
theorem passOver_none (f : Classified) (next newNext : Nat) (s : State)
    (h : ∀ e ∈ s.collection f.channel,
      behindBy (s.channel f.channel).settings.modulus next e.first
        + behindBy (s.channel f.channel).settings.modulus newNext next ≤ (s.channel f.channel).settings.modulus / 2) :
    passOver f next newNext s = s := by
  simp only [passOver]
  rw [List.filter_eq_nil_iff.mpr]
  · rfl
  · intro e he; simp only [decide_eq_true_eq, Nat.not_lt]; exact h e he

theorem mem_insertFarthest (m n : Nat) (e x : Entry) (es : List Entry) :
    x ∈ insertFarthest m n e es ↔ x = e ∨ x ∈ es := by
  induction es with
  | nil => simp [insertFarthest]
  | cons y ys ih =>
    unfold insertFarthest
    split
    · simp
    · simp only [List.mem_cons, ih]; tauto

theorem mem_farthestFirst (m n : Nat) (x : Entry) (es : List Entry) : x ∈ farthestFirst m n es ↔ x ∈ es := by
  induction es with
  | nil => rfl
  | cons y ys ih =>
    show x ∈ insertFarthest m n y (farthestFirst m n ys) ↔ _
    rw [mem_insertFarthest, ih, List.mem_cons]

/-- A channel's collection in the order of R91 holds the channel's entries. -/
@[simp] theorem State.mem_collection (s : State) (ch : ChannelNo) (e : Entry) :
    e ∈ s.collection ch ↔ e ∈ s.channelEntries ch := mem_farthestFirst ..

theorem length_insertFarthest (m n : Nat) (e : Entry) (es : List Entry) :
    (insertFarthest m n e es).length = es.length + 1 := by
  induction es with
  | nil => rfl
  | cons y ys ih => unfold insertFarthest; split <;> simp [ih]

@[simp] theorem State.length_collection (s : State) (ch : ChannelNo) :
    (s.collection ch).length = (s.channelEntries ch).length := by
  have : ∀ (m n : Nat) (es : List Entry), (farthestFirst m n es).length = es.length := by
    intro m n es
    induction es with
    | nil => rfl
    | cons y ys ih =>
      show (insertFarthest m n y (farthestFirst m n ys)).length = _
      rw [length_insertFarthest, ih, List.length_cons]
  exact this _ _ _

/-! ### The pool -/

/-- An entry that joins the queue: the queue with that entry added somewhere. -/
theorem insertEntry_perm (e : Entry) (es : List Entry) : (insertEntry e es).Perm (e :: es) := by
  induction es with
  | nil => exact .refl _
  | cons x xs ih =>
    unfold insertEntry
    split
    · exact .refl _
    · exact (ih.cons x).trans (.swap ..)

@[simp] theorem length_insertEntry (e : Entry) (es : List Entry) : (insertEntry e es).length = es.length + 1 := by
  rw [(insertEntry_perm e es).length_eq, List.length_cons]

/-- A created entry adds one to the pool. -/
theorem length_createEntry (e : Entry) (s : State) : (createEntry e s).entries.length = s.entries.length + 1 :=
  length_insertEntry ..

/-- A created entry adds one to its own channel's entries and none to another's. -/
theorem length_channelEntries_createEntry (e : Entry) (s : State) (ch : ChannelNo) :
    ((createEntry e s).channelEntries ch).length =
      (s.channelEntries ch).length + (if e.channel = ch then 1 else 0) := by
  have := ((insertEntry_perm { e with order := s.nextOrder } s.entries).filter fun x => decide (x.channel = ch)).length_eq
  simp only [State.channelEntries, createEntry]
  rw [this]
  by_cases h : e.channel = ch <;> simp [h]

/-! ### Obtaining an entry -/

/-- Room in the channel and in the pool: the entry is created. -/
theorem requestEntry_room (by' : FrameTag) (e : Entry) (filling : Option (BitVec 32)) (s : State)
    (cap : (s.channelEntries e.channel).length < (s.channel e.channel).settings.entryCap)
    (pool : s.entries.length < Config.poolSize) : requestEntry by' e filling s = createEntry e s := by
  unfold requestEntry
  rw [if_neg (Nat.not_le_of_lt cap), if_neg (Nat.not_le_of_lt pool)]

/-- The channel at its cap: its first candidate in queue order is evicted, or the request leaves at once. -/
theorem requestEntry_cap (by' : FrameTag) (e : Entry) (filling : Option (BitVec 32)) (s : State)
    (cap : (s.channel e.channel).settings.entryCap ≤ (s.channelEntries e.channel).length) :
    requestEntry by' e filling s =
      match s.candidate filling fun x => decide (x.channel = e.channel) with
      | some v => createEntry e (evictEntry v by' s)
      | none => emitAtOnce by' e s := by
  unfold requestEntry
  refine (if_pos cap).trans ?_; cases s.candidate filling _ <;> rfl

/-- The pool full below the channel's cap: the first candidate in queue order is evicted and the pool counter gains 1,
or the request leaves at once. -/
theorem requestEntry_full (by' : FrameTag) (e : Entry) (filling : Option (BitVec 32)) (s : State)
    (cap : (s.channelEntries e.channel).length < (s.channel e.channel).settings.entryCap)
    (pool : Config.poolSize ≤ s.entries.length) :
    requestEntry by' e filling s =
      match s.candidate filling fun _ => true with
      | some v => createEntry e ((evictEntry v by' s).bump .poolFull)
      | none => emitAtOnce by' e s := by
  unfold requestEntry
  refine ((if_neg (Nat.not_le_of_lt cap)).trans (if_pos pool)).trans ?_; cases s.candidate filling _ <;> rfl

/-- Without an entry being filled, the candidate among a channel's entries is its first in queue order. -/
theorem State.candidate_channel (s : State) (ch : ChannelNo) :
    (s.candidate none fun x => decide (x.channel = ch)) = (s.channelEntries ch).head? := by
  simp only [State.candidate, State.channelEntries]
  rw [List.head?_filter]
  congr 1
  funext x
  simp

/-! ### Publication -/

/-- A publication on a SINGLE channel: the ARRIVAL record, counted. -/
theorem publish_single (f : Classified) (flags : ArrivalFlags) (first k : Nat) (filling : Option (BitVec 32)) (s : State)
    (h : (s.channel f.channel).settings.mode = .single) :
    publish f flags first k filling s =
      (offerOwn f (f.arrival { flags with published := true } first k) s).bump (.table f.channel .published) := by
  unfold publish
  dsimp only
  rw [if_neg (by simp [h])]

/-- A publication on a PAIRED channel: the AWAIT entry is requested first. -/
theorem publish_paired (f : Classified) (flags : ArrivalFlags) (first k : Nat) (filling : Option (BitVec 32)) (s : State)
    (h : (s.channel f.channel).settings.mode = .paired) :
    publish f flags first k filling s =
      (offerOwn f (f.arrival { flags with published := true } first k)
        (requestEntry (f.tag s) (f.awaitEntry (s.channel f.channel).settings first k) filling s)).bump
        (.table f.channel .published) := by
  unfold publish
  dsimp only
  rw [if_pos h]

/-- An entry that leaves the pool: the entries without it, its record on its channel's lane, and its counter. -/
theorem removeEntry_eq (e : Entry) (why : Removal) (by' : Option FrameTag) (s : State) :
    removeEntry e why by' s =
      (({ s with entries := s.entries.erase e } : State).offer (s.channel e.channel).settings.lane
        (.table e.channel by') (e.leaving (s.channel e.channel).settings s.count why)).bump e.lossCounter := rfl

/-! ### Flushing -/

/-- The record of a flushed entry, offered on its channel's lane. -/
def State.flushOffer (s : State) (by' : Option FrameTag) (e : Entry) : Offer :=
  { lane := (s.channel e.channel).settings.lane, source := .table e.channel by'
    record := e.leaving (s.channel e.channel).settings s.count .flushed }

/-- A flush: the entries leave the pool, and their records are offered in the order given; only counters change
besides. -/
theorem flushEntries_eq (by' : Option FrameTag) (es : List Entry) (s : State) :
    flushEntries by' es s =
      { s with entries := s.entries.diff es, offers := s.offers ++ es.map (s.flushOffer by')
               counters := (flushEntries by' es s).counters } := by
  induction es generalizing s with
  | nil => simp [flushEntries]
  | cons e es ih =>
    have step : flushEntries by' (e :: es) s = flushEntries by' es (removeEntry e .flushed by' s) := rfl
    rw [step, ih]
    have o : (removeEntry e .flushed by' s).flushOffer = s.flushOffer := rfl
    simp only [o, List.diff_cons, List.map_cons]
    simp only [removeEntry_eq, State.offer, State.bump, State.bumpBy, List.append_assoc, State.flushOffer,
      List.singleton_append]

/-- A counter that no flushed entry reports to stays. -/
theorem flushEntries_get_of_ne (by' : Option FrameTag) (es : List Entry) (s : State) (c : Counter) (h : ∀ e ∈ es, e.lossCounter ≠ c) :
    (flushEntries by' es s).counters.get c = s.counters.get c := by
  induction es generalizing s with
  | nil => rfl
  | cons e es ih =>
    have step : flushEntries by' (e :: es) s = flushEntries by' es (removeEntry e .flushed by' s) := rfl
    rw [step, ih _ fun x hx => h x (List.mem_cons_of_mem _ hx), removeEntry_eq,
      State.bump_get_of_ne _ (h e (List.mem_cons_self ..))]
    rfl

theorem insertFarthest_perm (m n : Nat) (e : Entry) (es : List Entry) :
    (insertFarthest m n e es).Perm (e :: es) := by
  induction es with
  | nil => exact .refl _
  | cons x xs ih =>
    unfold insertFarthest
    split
    · exact .refl _
    · exact (ih.cons x).trans (.swap ..)

theorem farthestFirst_perm (m n : Nat) (es : List Entry) : (farthestFirst m n es).Perm es := by
  induction es with
  | nil => exact .refl _
  | cons e es ih => exact (insertFarthest_perm ..).trans (ih.cons e)

/-- A channel's collection in the order of R91 is the channel's entries in another order. -/
theorem State.collection_perm (s : State) (ch : ChannelNo) : (s.collection ch).Perm (s.channelEntries ch) :=
  farthestFirst_perm ..

/-- Taking out a member that a test refuses does not change what the test keeps. -/
theorem filter_erase_of_false {α : Type} [DecidableEq α] (l : List α) (e : α) (q : α → Bool) (h : q e = false) :
    (l.erase e).filter q = l.filter q := by
  induction l with
  | nil => rfl
  | cons x xs ih =>
    by_cases hx : x = e
    · subst hx; simp [h]
    · rw [List.erase_cons_tail (by simpa using hx), List.filter_cons, List.filter_cons, ih]

/-- A list without those of its members that meet a test, whatever their order. -/
theorem diff_filter_perm {α : Type} [DecidableEq α] (l es : List α) (p : α → Bool) (h : es.Perm (l.filter p)) :
    l.diff es = l.filter fun x => !p x := by
  have all : ∀ x ∈ es, p x = true := fun x hx => (List.mem_filter.mp (h.mem_iff.mp hx)).2
  have keep : ∀ (es l : List α), (∀ x ∈ es, p x = true) →
      (l.diff es).filter (fun x => !p x) = l.filter fun x => !p x := by
    intro es
    induction es with
    | nil => intros; rfl
    | cons e es ih =>
      intro l g
      rw [List.diff_cons, ih _ fun x hx => g x (List.mem_cons_of_mem _ hx)]
      exact filter_erase_of_false l e _ (by simp [g e (List.mem_cons_self ..)])
  rw [← keep es l all]
  refine (List.filter_eq_self.mpr fun x hx => ?_).symm
  by_contra n
  have px : p x = true := by simpa using n
  have c : (l.diff es).count x = 0 := by
    rw [List.count_diff, h.count_eq, List.count_filter px, Nat.sub_self]
  exact absurd hx (List.count_eq_zero.mp c)

/-- When a channel's collection has been flushed, the entries of the other channels remain, in their order. -/
theorem State.diff_collection (s : State) (ch : ChannelNo) :
    s.entries.diff (s.collection ch) = s.entries.filter fun e => !decide (e.channel = ch) :=
  diff_filter_perm _ _ _ (s.collection_perm ch)

end Sys2Proof.Machine
end

