-- ==== Sys2Proof/Tests/Slice0.lean ====
section
/-! SUPPORT. Small tests: the checks of WellFormed, the spec's worked values, and for every statement with hypotheses
a theorem that shows a state and operands which meet them. -/

open Sys2Proof Sys2Proof.Machine

namespace Sys2Proof.Tests

/-! ### Helpers -/

/-- A request slot, TAKEN, with a code and fields (R171). -/
def slotOf (code : Nat) (fields : List (Nat × List Byte)) : List Byte :=
  layout 64 ([(0, [2]), (1, leBytes 1 code)] ++ fields)

/-- The state with a request taken and handed to its owner (R157). -/
def handing (slot : List Byte) (s : State) : State :=
  { s with engine := { s.engine with state := .busy, copy := some slot, handed := some slot } }

/-- The state with a request taken, its owner at work on it. -/
def working (s : State) : State := { s with engine := { s.engine with state := .busy, copy := some [], handed := none } }

/-- The next state of a command (the state itself where there is none). -/
def ran (c : Instr) (s : State) : State :=
  match exec c s with
  | .next t => t
  | .fault _ | .refused _ => s

/-- The next state of a step. -/
def stepped (s : State) : State :=
  match step s with
  | .next t => t
  | .fault _ | .refused _ => s

/-! ### WellFormed: each check refuses an ill-formed command -/

theorem test_wf_fraction_below_one : (Instr.frameFirstByte 0 ⟨15, 16⟩).wf = true := by decide
theorem test_wf_first_byte_outside_cycle : (Instr.frameFirstByte 0 ⟨16, 16⟩).wf = false := by decide
theorem test_wf_edge_outside_cycle : (Instr.ppsEdge .rising ⟨1, 0⟩).wf = false := by decide
theorem test_wf_empty_frame : (Instr.endOfFrame 3 []).wf = false := by decide
theorem test_wf_page_list_too_short : (Instr.pageListReadDone 0 (zeros 8)).wf = false := by decide
theorem test_wf_slot_bytes : (Instr.slotReadDone 0 [1, 0]).wf = false := by decide
theorem test_wf_enables_with_freset : (Instr.setEnables 0x80000001).wf = false := by decide
theorem test_wf_ignored_write_to_nudge : (Instr.ignoredRegisterWrite 0x14 1).wf = false := by decide

/-! ### The queue, and words -/

theorem test_no_word_spells_a_command : decodeTableWord 16 0x1234 = none := by decide
theorem test_placing_a_word : (State.reset.withFetchWord 16 0x1234).pending = [] := by decide
theorem test_step_takes_the_front :
    let t := stepped { State.reset with pending := [.causeRead, .oscillatorCycleEnd] }
    t.pending = [.oscillatorCycleEnd] ∧ t.bus.log = [.reply 0] ∧ t.count = 0 := by decide

/-! ### Byte strings -/

/-- The check value of the CRC-32 of Ethernet over the digits 1 to 9 (the catalogued value of the polynomial of R9). -/
theorem test_crc_check_value :
    crcOf [0x31, 0x32, 0x33, 0x34, 0x35, 0x36, 0x37, 0x38, 0x39] = 0xCBF43926 := by decide +kernel
theorem test_little_endian : leBytes 4 0x12345678 = [0x78, 0x56, 0x34, 0x12] := by decide
theorem test_signed_field : leInt 4 (-100) = [0x9C, 0xFF, 0xFF, 0xFF] ∧ signedOf 4 0xFFFFFF9C = -100 := by decide +kernel
theorem test_rounding_halves : roundDiv 5 2 = 3 ∧ roundDiv (-5) 2 = -3 ∧ roundDiv (-4) 3 = -1 := by decide

/-! ### The Timebase: the increments of R23, the slews of R26 -/

def timed (f r : Int) (rate : Nat) : State :=
  { State.reset with timebase := { State.reset.timebase with freq := f, slew := r, slewRate := rate }
                     discipline := { Discipline.reset with active := { Adoption.reset with slewRate := rate } } }

theorem test_increment_table :
    (timed 0 0 50).increment = 10737418240 ∧ (timed 1250 0 50).increment = 10737431662
    ∧ (timed (-200) (-1000000) 50).increment = 10736879222 ∧ (timed 1250 1000000 50).increment = 10737968533
    ∧ (timed 200000 2147483648000000000 500).increment = 10744934433
    ∧ (timed (-200000) (-2147483648000000000) 500).increment = 10729902047 := by decide

/-- The last cycles of a slew of 25,000 sub-units at 1 ppm (R26's example). -/
theorem test_slew_example :
    (cycleEnd (timed 0 25000 1)).timebase.slew = 14263
    ∧ (cycleEnd (cycleEnd (timed 0 25000 1))).timebase.slew = 3526
    ∧ (cycleEnd (cycleEnd (cycleEnd (timed 0 25000 1)))).timebase.slew = 0 := by decide

/-- The seconds wrap without a step (R22). -/
theorem test_seconds_wrap :
    let t := ran .oscillatorCycleEnd
      { State.reset with timebase := { State.reset.timebase with sec := 4294967295, sub := 4294967295999999999 } }
    t.timebase.sec = 0 ∧ t.timebase.sub = 10737418239 ∧ t.timebase.epoch = 0 ∧ t.count = 1 := by decide

/-! ### Composition: the worked cases of 4.4 -/

def captureAt (sec : BitVec 32) (sub : Nat) (increment : Int) (phase : BitVec 4) : Capture :=
  { stamp := { n := 0, p := phase }, snap := { sec := sec, sub := sub, increment := increment, epoch := 4, quality := .locked } }

theorem test_composition_case_1 :
    compose (captureAt 1700000000 530242871224172544 10737431662 6) 2480
      = { time := { sec := 1700000000, ns := 123456712, th := 14 }, clamped := false, q := 3950614798 } := by decide
theorem test_composition_case_2 :
    compose (captureAt 1700000000 (37 * 4294967296) 10737418240 0) 2480
      = { time := { sec := 1699999999, ns := 999999959, th := 16 }, clamped := false, q := 31999998704 } := by decide
theorem test_composition_case_3 :
    compose (captureAt 4294967295 (999999999 * 4294967296 + 234881024) 10737418240 6) 0
      = { time := { sec := 0, ns := 0, th := 0 }, clamped := false, q := 0 } := by decide
theorem test_composition_case_4 :
    compose (captureAt 0 (20 * 4294967296) 10737418240 0) 2480
        = { time := { sec := 0, ns := 0, th := 0 }, clamped := true, q := 31999998160 }
      ∧ errorOf 31999998160 = -1840 := by decide

/-! ### Leads: the worked cases of 4.6 -/

theorem test_lead_cases :
    leadOf ⟨1000000, 3⟩ 2480 ⟨1000130, 9⟩ 3120 = 9790 ∧ leadOf ⟨2000000, 2⟩ 3120 ⟨1999990, 14⟩ 2480 = -100
    ∧ leadOf ⟨5000000000, 0⟩ 0 ⟨5030000000, 0⟩ 0 = 2147483647 := by decide
/-- A winner shortly before the count wraps (R65). -/
theorem test_lead_across_the_wrap : leadOf ⟨0xFFFFFFFFFFFFFFFF, 0⟩ 0 ⟨1, 0⟩ 0 = 160 := by decide

/-! ### Steps and requests of the Timebase: the examples of 2.6 and 2.7 -/

def clocked (sec : BitVec 32) (sub : Nat) (epoch : BitVec 16) (slew : Int) : State :=
  { State.reset with timebase := { sec := sec, sub := sub, freq := 0, slew := slew, slewRate := 50, epoch := epoch } }

def adjustSlot (ns : Int) (mode : Nat) : List Byte := slotOf 0x02 [(8, leInt 4 ns), (12, leBytes 1 mode)]

/-- A step back across a second (2.6). -/
theorem test_step_back_across_a_second :
    let s := clocked 1700000000 (400000000 * 4294967296 + 1073741824) 7 (-300 * 4294967296)
    let t := ran .adjustTime (handing (adjustSlot (-750000000) 0) s)
    t.timebase = { sec := 1699999999, sub := 650000000 * 4294967296 + 1073741824, freq := 0, slew := 0, slewRate := 50
                   epoch := 8 }
    ∧ t.offers.length = 4
    ∧ t.offers[1]? = some
        { lane := 1, source := .timebase
          record := .step
            { cause := .adjust, oldSec := 1700000000, oldNs := 400000000, offset := -750000000
              time := { time := { sec := 1699999999, ns := 650000000, th := 8 }, epoch := 8, quality := .free } } } := by
  decide

/-- A step clamped at zero (2.6). -/
theorem test_step_clamped_at_zero :
    let t := ran .adjustTime (handing (adjustSlot (-500000000) 0) (clocked 0 (200000000 * 4294967296) 0 0))
    t.timebase.sec = 0 ∧ t.timebase.sub = 0 ∧ t.timebase.epoch = 1 := by decide

/-- Setting the time after a cold reset (2.7). -/
theorem test_set_time_example :
    let s := clocked 5 (120000002 * 4294967296 + 2147483648) 0 0
    let t := ran .setTime (handing (slotOf 0x01 [(8, leBytes 4 1700000000), (12, leBytes 4 0)]) s)
    t.timebase.sec = 1700000000 ∧ t.timebase.sub = 0
    ∧ (t.offers.head?.map fun o => decide (o.record = .step
        { cause := .set, oldSec := 5, oldNs := 120000002, offset := 1699999994879999998
          time := { time := { sec := 1700000000, ns := 0, th := 0 }, epoch := 1, quality := .free } })) = some true := by
  decide

/-- The third row of R34's table: the limit of R cuts a slew. -/
theorem test_slew_limit :
    let t := ran .adjustTime (handing (adjustSlot 300000000 1) (clocked 0 0 0 (400000000 * 4294967296)))
    t.timebase.slew = 500000000 * 4294967296
    ∧ t.engine.answer = some { outcome := .adjusted, result := zeros 12 ++ leBytes 4 500000000 } := by decide

/-! ### The discipline: the example of 3.4 -/

def edgeOf (stage : EdgeStage) : Edge := { capture := captureAt 10 0 10737418240 0, settings := .reset, stage := stage }

def atEdge (stage : EdgeStage) : State :=
  { State.reset with
    timebase := { sec := 10, sub := 5000, freq := 0, slew := 77, slewRate := 50, epoch := 4 }
    discipline := { Discipline.reset with enabled := true, state := .locked, good := 4, lastAccepted := some 0, timer := true
                                          latch := some (edgeOf stage) } }

/-- One edge 800 ns ahead, gain 4 (3.4): F −200 ppb and R −800 ns. -/
theorem test_edge_example :
    let ahead : Edge := { edgeOf .captured with capture := captureAt 10 (800 * 4294967296) 10737418240 0 }
    let s := atEdge .captured
    let t := ran .disciplineCorrection (ran .edgeProcess { s with discipline := { s.discipline with latch := some ahead } })
    let u := ran .edgeComplete t
    t.timebase.freq = -200 ∧ t.timebase.slew = -3435973836800 ∧ u.discipline.good = 0
    ∧ u.discipline.state = .acquiring ∧ u.discipline.lastError = 25600 ∧ u.discipline.latch = none := by decide

/-! ### Ports -/

/-- The shortest legal frame, all zeros before its FCS. -/
def goodFrame : List Byte := zeros 60 ++ leBytes 4 (crcOf (zeros 60)).toNat
def badFrame : List Byte := zeros 64

def receiving (p : Port) : Port :=
  { p with enabled := true, link := .up, windowStart := some 0
           latch := some { capture := captureAt 0 0 10737418240 0, settings := p.settings.frame } }

def atPort (k : PortNo) (p : Port) (s : State := .reset) : State := s.setPort k p

theorem test_good_frame_is_queued :
    let t := ran (.endOfFrame 3 goodFrame) (atPort 3 (receiving (.reset .up)))
    (t.port 3).queue.length = 1 ∧ t.counters.get (.port 3 .passed) = 1 ∧ (t.port 3).latch = none := by decide +kernel

/-- The third error of a window with threshold 3 degrades the port (1.5's example). -/
theorem test_third_error_degrades :
    let p : Port := { receiving (.reset .up) with windowCount := 2, settings := { PortSettings.reset with threshold := 3 } }
    let t := ran (.endOfFrame 5 badFrame) (atPort 5 p)
    (t.port 5).health = .degraded ∧ (t.port 5).windowCount = 3 ∧ t.bus.cause = 0x40
    ∧ t.counters.get (.port 5 .noticeNoLane) = 1 := by decide +kernel

/-! ### The Classifier: the frames of 5.7's example -/

/-- An untagged datagram to 233.54.12.7, port 16,005, that carries a payload. -/
def datagram (fragment : Byte) (payload : List Byte) : List Byte :=
  zeros 12 ++ [0x08, 0x00] ++ [0x45, 0, 0, 0, 0, 0, fragment, 0, 64, 17, 0, 0, 10, 0, 0, 1, 233, 54, 12, 7]
    ++ [0, 1, 0x3E, 0x85] ++ [0, BitVec.ofNat 8 (8 + payload.length), 0, 0] ++ payload ++ zeros 4

def groupKey : Key := { address := 0xE9360C07, udpPort := 16005 }

def feedChannel : Channel :=
  { on := true, run := 1, nextSeq := none
    settings := { ChannelSettings.reset with
      lane := 1, reject := .capture, marker := { index := 40, length := 2, offset := 0 }
      sequence := { offset := 4, width := 8, order := .big }, msgCount := some { offset := 12, width := 2, order := .big } } }

/-- Frame 1's payload: the marker AAh BBh, sequence 1,234,567, count 3, and the rest. -/
def feedPayload (first : Byte) : List Byte := [first, 0xBB, 0, 0] ++ (leBytes 8 1234567).reverse ++ [0, 3] ++ zeros 4

def classifying (bytes : List Byte) (ch : Channel := feedChannel) (policy : CapturePolicy := .ignore) : State :=
  let settings : FrameSettings := { PortSettings.reset.frame with unmapped := policy, noticeLane := some 3 }
  let f : Frame := { port := 1, bytes := bytes, capture := captureAt 0 0 10737418240 0, settings := settings }
  ((({ State.reset with patterns := (State.reset.patterns.set 40 0xAA).set 41 0xBB } : State).setPort 1
      { receiving (.reset .up) with queue := [f] }).setMap 1
        ((State.reset.map 1).set 22 (some { key := groupKey, channel := 17, line := .a }))).setChannel 17 ch

theorem test_frame_1_is_classified :
    let t := ran (.classifyFrame 1) (classifying (datagram 0 (feedPayload 0xAA)))
    (t.inputOf 1).map (fun f => (f.channel, f.line, f.s, f.c, f.run)) = some (17, .a, 1234567, 3, 1)
    ∧ t.counters.get (.classifierChannel 17 .classified) = 1 := by decide
theorem test_frame_3_is_foreign :
    let t := ran (.classifyFrame 1) (classifying (datagram 0 (feedPayload 0xAB)))
    t.inputOf 1 = none ∧ t.counters.get (.classifierChannel 17 .foreignMarker) = 1 ∧ t.offers.length = 1 := by decide
theorem test_frame_4_is_unmapped :
    let t := ran (.classifyFrame 1) (classifying (datagram 0x20 (feedPayload 0xAA)))
    t.counters.get (.classifierPort 1 .notUdp) = 1 ∧ t.offers = [] := by decide

/-- MAP_ADD on P0, which holds the key, and P1, whose lowest free index is 22 (5.4's example, without P4). -/
theorem test_map_add_takes_the_lowest_index :
    let entry : MapEntry := { key := groupKey, channel := 17, line := .a }
    let other (i : Nat) : Option MapEntry :=
      some { key := { address := 1, udpPort := BitVec.ofNat 16 i }, channel := 0, line := .b }
    let full : AddressMap := Vector.ofFn fun i => if i = 22 then none else other i
    let s := (State.reset.setMap 0 ((State.reset.map 0).set 5 (some entry))).setMap 1 full
    let slot := slotOf 0x20 [(8, [3]), (9, [1]), (10, [0]), (12, leBytes 2 17), (14, leBytes 2 16005), (16, [233, 54, 12, 7])]
    let t := ran .mapAdd (handing slot s)
    t.engine.answer = some { outcome := .ok, result := [22, 1, 0xFF] ++ zeros 13 }
    ∧ mapIndex (t.map 0) groupKey = some 5 ∧ mapIndex (t.map 1) groupKey = some 22 := by decide

/-! ### The Table: the worked sequence of 6.11 -/

def lineChannel (next : Option Nat) : Channel :=
  { on := true, run := 1, nextSeq := next, settings := { ChannelSettings.reset with lane := 1 } }

/-- A frame of channel 17 on line A (P1, D = 2,480) or B (P5, D = 3,120) at the Table's input. -/
def lineFrame (line : Line) (s c : Nat) (n : Count) (p : BitVec 4) : Classified :=
  let capture : Capture := { captureAt 0 0 10737418240 0 with stamp := { n := n, p := p } }
  match line with
  | .a => { port := 1, channel := 17, line := .a, run := 1, s := s, c := c, frameLength := 64, captured := zeros 60
            capture := capture, delay := 2480 }
  | .b => { port := 5, channel := 17, line := .b, run := 1, s := s, c := c, frameLength := 64, captured := zeros 60
            capture := capture, delay := 3120 }

def inTable (f : Classified) (s : State) : State := s.setInput f.port (some f)
def taking (f : Classified) (s : State) : State := ran (.tableTakeFrame f.port) (inTable f s)

/-- The ranges of the channel's entries, AWAIT as true. -/
def ranges (s : State) : List (Bool × Nat × Nat × Count) :=
  s.entries.map fun e => match e.kind with
    | .await _ => (true, e.first, e.count, e.deadline)
    | .gap _ => (false, e.first, e.count, e.deadline)

def leads (s : State) : List Int :=
  s.offers.filterMap fun o => match o.record with
    | .partner r => some r.lead
    | .arrival _ | .gap _ | .lineMiss _ | .resync _ | .dropped _ | .step _ | .port _ | .time _ => none

def arbitrating (next : Option Nat) : State := State.reset.setChannel 17 (lineChannel next)

def afterFrame1 : State := taking (lineFrame .a 100 3 10000000 4) (arbitrating none)
def afterFrame4 : State :=
  taking (lineFrame .b 108 1 10060000 0) (taking (lineFrame .b 103 2 10050000 0)
    (taking (lineFrame .b 100 3 10000120 1) afterFrame1))

theorem test_frame_1_publishes :
    ranges afterFrame1 = [(true, 100, 3, 10400000)] ∧ (afterFrame1.channel 17).nextSeq = some 103
    ∧ afterFrame1.counters.get (.table 17 .published) = 1 := by decide
theorem test_frames_2_to_4 :
    ranges afterFrame4 = [(true, 103, 2, 10450000), (true, 108, 1, 10460000), (false, 105, 3, 10860000)]
    ∧ leads afterFrame4 = [8945] ∧ (afterFrame4.channel 17).nextSeq = some 109 := by decide
theorem test_frames_5_to_9 :
    let s := taking (lineFrame .a 108 1 10060040 0) (taking (lineFrame .a 103 2 10050200 0) afterFrame4)
    let t := taking (lineFrame .b 100 3 10080000 0) (taking (lineFrame .b 105 2 10070300 0)
      (taking (lineFrame .a 105 2 10070000 0) s))
    leads t = [8945, 16640, 3840, 23360] ∧ ranges t = [(false, 107, 1, 10860000)]
    ∧ t.counters.get (.table 17 .stale) = 1 ∧ t.counters.get (.table 17 .published) = 4
    ∧ (ran .expiry { t with count := 10860000 }).entries = [] ∧ (ran .expiry { t with count := 10859999 }).entries ≠ [] := by
  decide

/-- A frame of a channel at the Table's input. -/
def frameOf (port : PortNo) (ch : ChannelNo) (line : Line) (s c : Nat) (n : Count) (delay : Nat := 0) : Classified :=
  { port := port, channel := ch, line := line, run := 1, s := s, c := c, frameLength := 64, captured := zeros 60
    capture := { captureAt 0 0 10737418240 0 with stamp := { n := n, p := 0 } }, delay := delay }

/-- Kind, first sequence and count of a frame's or an entry's record. -/
def shape (o : Offer) : Nat × Nat × Nat :=
  match o.record with
  | .arrival r => (o.record.kind, r.pubFirst, r.pubCount)
  | .gap r => (o.record.kind, r.first, r.count)
  | .lineMiss r => (o.record.kind, r.first, r.count)
  | .partner r => (o.record.kind, r.first, r.count)
  | .resync r => (o.record.kind, r.newNext, r.flushed)
  | .dropped _ | .step _ | .port _ | .time _ => (o.record.kind, 0, 0)

/-- A wrap, a straddle, a heartbeat gap, a split fill and a resync (6.12). -/
theorem test_wrap_straddle_and_resync :
    let s := State.reset.setChannel 40 (lineChannel (some 4294967290))
    let t := taking (frameOf 6 40 .b 9 2 20012000) (taking (frameOf 2 40 .a 20 1 20010050)
      (taking (frameOf 2 40 .a 20 0 20010000) (taking (frameOf 6 40 .b 4294967295 8 20000300)
        (taking (frameOf 2 40 .a 4294967290 10 20000000) s))))
    let u := taking (frameOf 6 40 .b 4294900000 1 20015000) t
    t.offers.map shape = [(1, 4294967290, 10), (1, 4, 3), (1, 0, 0), (1, 20, 1), (1, 9, 2)]
    ∧ (u.offers.drop 5).map shape = [(4, 4294967290, 10), (4, 4, 3), (3, 7, 2), (4, 9, 2), (3, 11, 9), (4, 20, 1),
        (5, 4294900001, 6), (1, 4294900000, 1)]
    ∧ ranges u = [(true, 4294900000, 1, 20415000)] ∧ (u.channel 40).nextSeq = some 4294900001
    ∧ u.counters.get (.table 40 .published) = 5 ∧ u.counters.get (.table 40 .resyncs) = 1 := by decide

/-- Taken 200 cycles after its capture. -/
def takenLate (f : Classified) (s : State) : State := taking f { s with count := f.capture.stamp.n + 200 }

/-- The overload case with entry cap 3 (7.8). -/
theorem test_overload_case :
    let s := State.reset.setChannel 9
      { lineChannel (some 500) with settings := { (lineChannel none).settings with entryCap := 3 } }
    let t := takenLate (frameOf 7 9 .b 503 1 30004000) (takenLate (frameOf 3 9 .a 506 1 30003000)
      (takenLate (frameOf 3 9 .a 505 1 30002000) (takenLate (frameOf 3 9 .a 501 1 30001000)
        (takenLate (frameOf 3 9 .a 500 1 30000000) s))))
    let u := takenLate (frameOf 7 9 .b 505 1 30004500) (takenLate (frameOf 3 9 .a 503 1 30004100) t)
    ranges t = [(true, 503, 1, 30404000), (false, 502, 1, 30802000), (false, 504, 1, 30802000)]
    ∧ u.offers.map shape = [(1, 500, 1), (1, 501, 1), (4, 500, 1), (1, 505, 1), (4, 501, 1), (1, 506, 1), (4, 505, 1),
        (4, 506, 1), (1, 503, 1), (2, 503, 1)]
    ∧ u.counters.get (.table 9 .stale) = 1 ∧ u.counters.get (.expiry 9 .evictions) = 4 ∧ leads u = [8000] := by decide

/-! ### Staging and lanes: the examples of 8.1 and 8.10 -/

def partitionSlot (allotments caps : List Nat) : List Byte :=
  slotOf 0x32 [(8, allotments.flatMap (leBytes 2)), (16, caps.flatMap (leBytes 2))]

theorem test_partition_example :
    let t := ran .partitionSet (handing (partitionSlot [512, 26, 512, 512] [4096, 4, 4096, 4096]) .reset)
    t.engine.answer = some { outcome := .adjusted, result := [2534, 4, 2534, 2534, 2534].flatMap (leBytes 2) ++ zeros 6 }
    ∧ (t.stage 1).allotment = 26 ∧ (t.stage 1).cap = 4 ∧ (t.stage 0).cap = 2534 := by decide

/-- An ARRIVAL record of 1,024 bytes, 16 blocks. -/
def bigRecord : Record :=
  .arrival { channel := some 30, port := 4, line := some .a, flags := { published := true, truncated := true }
             time := State.reset.reading, reason := .none, frameLength := 1200, captured := zeros 960, msgCount := 1
             first := 1, pubFirst := 1, pubCount := 1, stamp := ⟨0, 0⟩ }
def smallRecord : Record :=
  .port { port := 4, link := .down, health := .normal, windowCount := 0, time := State.reset.reading }

/-- Lane 1 with its FIFO and tally, in a partition with allotment 26 and cap 4. -/
def inLane (w : Lane) (fifo : List Record := []) (tally : Tally := .empty) (s : State := .reset) : State :=
  (s.setLane 1 w).setStage 1 { allotment := 26, cap := 4, fifo := fifo, tally := tally, dropTotal := 0 }

def openLane : Lane :=
  { Lane.reset with state := .opened, pages := [0x10000, 0x20000, 0x30000, 0x40000], batch := 2 }

def offering (r : Record) (s : State) : State :=
  { s with offers := [{ lane := 1, source := .table 30 none, record := r }] }

def twoDropped : Tally :=
  { dropped := 2, arrivals := 2, first := some ⟨0, 70000, 0⟩, last := some ⟨0, 80000, 0⟩ }

/-- Times 70 and 85 of 8.10: the need of 16 blocks is not met; the need of 1 + 1 blocks is. -/
theorem test_admission_example :
    let s := inLane { openLane with state := .starved } [bigRecord]
    ((ran (.offerRecord 0) (offering bigRecord s)).stage 1).tally.dropped = 1
    ∧ ((ran (.offerRecord 0) (offering smallRecord (inLane { openLane with state := .starved } [bigRecord] twoDropped))).stage
        1).fifo.map Record.blocks = [16, 1, 1] := by decide +kernel

/-- Page 1 is full at 3,104 bytes; its header, and the second close reaches the batch (8.10 at 60, 10.2). -/
theorem test_full_page_closes :
    let page : CurrentPage := { address := 0x20000, used := 3104, records := 3, firstSerial := 3 }
    let w : Lane := { openLane with
      current := some page, nextPage := 1, serial := 6, pageSerial := 1, closedPages := 1, pendingCloses := 1 }
    let t := ran (.writeRecord 1) (inLane w [bigRecord])
    t.bus.log = [.write [{ address := 0x20004
                           bytes := leBytes 4 1 ++ leBytes 4 3 ++ leBytes 2 3 ++ [1, 1] ++ leBytes 4 3104 ++ zeros 12 }],
                 .write [{ address := 0x20000, bytes := [2, 0, 0, 0] }], .read 0 0x30000 4]
    ∧ (t.lane 1).pendingCloses = 0 ∧ t.bus.cause = 2 ∧ (t.lane 1).nextPage = 2 := by decide +kernel

/-! ### The Bus Interface -/

/-- Places of the counter snapshot, in bytes (R175). -/
theorem test_counter_places :
    counterAt (72 * 7 / 8 + 8) = some (.port 7 .noticeNoLane) ∧ counterAt (576 / 8) = some (.classifierPort 0 .notUdp)
    ∧ counterAt (768 / 8 + 3) = some (.timebase .stepNoLane) ∧ counterAt (800 / 8) = some (.discipline .accepted)
    ∧ counterAt ((848 + 40 * 255) / 8) = some (.classifierChannel 255 .classified)
    ∧ counterAt (11088 / 8) = some (.table 0 .published) ∧ counterAt ((21328 + 24) / 8) = some (.expiry 1 .gaps)
    ∧ counterAt (27472 / 8) = some .poolFull ∧ counterAt ((27480 + 64 * 3) / 8 + 7) = some (.lane 3 .closeDiscards) := by
  decide

/-- Offsets of the Status Block's fields (R174). -/
theorem test_status_offsets :
    (statusLane .reset 3).map (·.1) = [0x4B0, 0x4B1, 0x4B2, 0x4B4, 0x4B8, 0x4BC]
    ∧ (statusPort .reset 7).map (·.1) = [0x4F8, 0x4F9, 0x4FA, 0x4FC] := by decide

/-- Setting CAUSE TIME with its enable on sends the message; a read of CAUSE clears it (R153, R154). -/
theorem test_cause_and_message :
    let s := ran (.setEnables 0x2001) .reset
    let t := ran .adjustTime (handing (adjustSlot 1 0) s)
    t.bus.control = 0x2001 ∧ t.bus.log = [.message 0 0] ∧ (ran .causeRead t).bus.cause = 0
    ∧ (ran .causeRead t).bus.log = [.message 0 0, .reply 0x20] := by decide

/-! ### Witnesses: for each statement with hypotheses, states and operands that meet them, clause by clause -/

theorem witness_StepTakesFrontOfQueueOrIdles : State.reset.pending = [] := by decide

theorem witness_IncrementIsNominalPlusCorrections :
    (timed 200000 2147483648000000000 500).TimebaseInRange ∧ (timed (-200000) (-2147483648000000000) 1).TimebaseInRange := by
  decide

theorem witness_CycleEndAdvancesCountAndTime :
    (clocked 4294967295 4294967295999999999 0 (-2147483648000000000)).TimebaseInRange := by decide

/-- R at 0, at the full bias, at its negative, and within it; the full bias at 1 ppm is 10,737; a cycle in which another S
has been adopted. -/
theorem witness_SlewEndsAfterItsCycles :
    ((timed 0 0 1).TimebaseInRange ∧ (timed 0 0 1).discipline.active.slewRate = (timed 0 0 1).timebase.slewRate)
    ∧ (timed 0 10737 1).TimebaseInRange ∧ (timed 0 (-10737) 1).TimebaseInRange
    ∧ (timed 0 10736 1).TimebaseInRange ∧ fullBias 1 = 10737
    ∧ (let s := timed 0 10737 1
       let u : State := { s with discipline := { s.discipline with active := { s.discipline.active with slewRate := 500 } } }
       u.TimebaseInRange ∧ u.discipline.active.slewRate ≠ u.timebase.slewRate ∧ u.bias = 10737) :=
  ⟨by decide, by decide, by decide, by decide, by decide, by decide⟩

theorem witness_LampsFollowTheirTables :
    let p := receiving (.reset .up)
    (State.reset.port 0).enabled = false ∧ { p with link := .down }.link = .down
    ∧ (p.enabled = true ∧ p.link = .up ∧ { p with health := .fenced }.health = .fenced
        ∧ { p with health := .degraded }.health = .degraded ∧ p.health = .normal)
    ∧ State.reset.discipline.state = .free ∧ (atEdge .captured).discipline.state = .locked
    ∧ { (atEdge .captured).discipline with state := .acquiring }.state = .acquiring
    ∧ { (atEdge .captured).discipline with state := .holdover }.state = .holdover
    ∧ (atPort 0 p).portLampLit 0 = true ∧ (atEdge .captured).syncLampLit = true
    ∧ p.settings.lampPolarity = .activeHigh ∧ State.reset.discipline.lampPolarity = .activeHigh := by decide

/-- A report of the recorded state, of another on a DISABLED port, and of DOWN in the middle of a frame on an ENABLED
one; the first and the last sixteenth of a cycle. -/
theorem witness_LinkChangesAndFirstBytesAreTaken :
    let p := (atPort 7 (receiving (.reset .up))).port 7
    ((State.reset.port 7).link = .down ∧ (State.reset.port 7).enabled = false)
    ∧ (p.link ≠ .down ∧ p.latch ≠ none ∧ p.enabled = true)
    ∧ CycleFraction.wf ⟨15, 16⟩ = true ∧ CycleFraction.wf ⟨0, 1⟩ = true := by decide

/-- Lengths 63, 9,601, 64 and 9,600. -/
theorem witness_RuntsAndGiantsAreDiscarded :
    ((atPort 0 (receiving (.reset .up))).port 0).latch ≠ none ∧ (zeros 63).length < 64 ∧ 9600 < (zeros 9601).length
    ∧ (64 ≤ (zeros 64).length ∧ (zeros 64).length ≤ 9600) ∧ (64 ≤ (zeros 9600).length ∧ (zeros 9600).length ≤ 9600) := by
  refine ⟨by decide, ?_⟩
  simp only [zeros, List.length_replicate]
  omega

/-- The shortest legal frame, good at a port with 15, with 16 waiting frames and at a FENCED one, and bad; a port with no frame latched. -/
theorem witness_LegalFrameIsPassedCountedOrCaptured :
    let p := receiving (.reset .up)
    let f : Frame := { port := 0, bytes := goodFrame, capture := captureAt 0 0 0 0, settings := p.settings.frame }
    (p.latch ≠ none ∧ 64 ≤ goodFrame.length ∧ goodFrame.length ≤ 9600 ∧ fcsGood goodFrame = true)
    ∧ { p with queue := List.replicate 15 f }.queue.length < 16 ∧ ¬ { p with queue := List.replicate 16 f }.queue.length < 16
    ∧ { p with health := .fenced }.health = .fenced
    ∧ (64 ≤ badFrame.length ∧ badFrame.length ≤ 9600 ∧ fcsGood badFrame = false)
    ∧ { p.settings.frame with badFrame := .capture }.badFrame = .capture
    ∧ (State.reset.port 7).latch = none := by decide +kernel

/-- The window ends at its last cycle and not one before; the count just below and at the threshold; no window. -/
theorem witness_WindowEndAppliesRecovery :
    let p (health : Health) (count threshold : Nat) : Port :=
      { receiving (.reset .up) with
        health := health, windowCount := count, settings := { PortSettings.reset with threshold := threshold } }
    (p .normal 0 0).windowStart = some 0 ∧ reached 400000000 (0 + 400000000) = true
    ∧ ((p .degraded 5 0).health = .degraded ∧ (p .degraded 5 0).settings.threshold = 0)
    ∧ (p .degraded 2 3).windowCount < (p .degraded 2 3).settings.threshold
    ∧ ((p .degraded 3 3).settings.threshold ≠ 0 ∧ (p .degraded 3 3).settings.threshold ≤ (p .degraded 3 3).windowCount)
    ∧ (p .normal 0 0).health = .normal ∧ (p .fenced 0 0).health = .fenced
    ∧ reached 399999999 (0 + 400000000) = false ∧ (State.reset.port 7).windowStart = none := by decide

/-- The Classifier's clauses: no parse, no entry, an OFF channel, a marker past the end, another marker, a count past the
end, and a classified frame with the input free and taken. -/
theorem witness_ClassifierTakesHeadFrames :
    let s := classifying (datagram 0 (feedPayload 0xAA))
    let e : MapEntry := { key := groupKey, channel := 17, line := .a }
    let parsed (payload : List Byte) : Option Parsed := some { key := groupKey, payload := payload }
    let body (payload : List Byte) : List Byte := (datagram 0 payload).take ((datagram 0 payload).length - 4)
    let x := feedChannel.settings
    ((s.port 1).queue.length = 1 ∧ ((s.port 1).queue.map (·.port)) = [1] ∧ s.waitingOf 1 = none)
    ∧ parseFrame (zeros 60) = none
    ∧ (parseFrame (body (feedPayload 0xAA)) = parsed (feedPayload 0xAA) ∧ mapEntry (State.reset.map 1) groupKey = none)
    ∧ mapEntry (s.map 1) groupKey = some e
    ∧ { feedChannel with on := false }.on = false
    ∧ (feedChannel.on = true ∧ x.marker.length ≠ 0 ∧ parseFrame (body [0xAA]) = parsed [0xAA]
        ∧ ¬ x.marker.offset + x.marker.length ≤ [(0xAA : Byte)].length)
    ∧ (x.marker.offset + x.marker.length ≤ (feedPayload 0xAB).length
        ∧ fieldAt (feedPayload 0xAB) 0 2 ≠ fieldAt s.patterns.toList 40 2)
    ∧ (fieldAt ((feedPayload 0xAA).take 12) 0 2 = fieldAt s.patterns.toList 40 2
        ∧ extract x ((feedPayload 0xAA).take 12) = none)
    ∧ (extract x (feedPayload 0xAA) = some (1234567, 3) ∧ s.inputOf 1 = none
        ∧ (inTable (lineFrame .a 0 1 0 0) s).inputOf 1 ≠ none)
    ∧ (s.setWaiting 1 (some (lineFrame .a 0 1 0 0))).waitingOf 1 ≠ none ∧ (State.reset.port 1).queue = [] := by decide

/-- No tag and no options; a tag and 40 bytes of options; frames accepted plain and with one tag; refused with two tags,
another type, as a fragment, with another protocol, a short header, a header past the end and a UDP length of 7; a
sequence and a count that just fit a payload of 12 bytes, and each one byte past its end. -/
theorem witness_FramesParseToKeyPayloadSequenceAndCount :
    let dgram (type : List Byte) (first flags offset protocol len : Byte) : List Byte :=
      zeros 12 ++ type ++ [first, 0, 0, 0, 0, 0, flags, offset, 64, protocol, 0, 0, 10, 0, 0, 1, 233, 54, 12, 7]
        ++ [0, 1, 0x3E, 0x85, 0, len, 0, 0]
    let settings (first second : Nat) : ChannelSettings :=
      { ChannelSettings.reset with
        sequence := { offset := first, width := 8, order := .big }
        msgCount := some { offset := second, width := 2, order := .little } }
    ((zeros 12).length = 12 ∧ (0x45 : Byte).toNat = 64 + (20 + ([] : List Byte).length) / 4 ∧ (0x40 : Byte).toNat % 64 = 0
        ∧ (0 : Byte).toNat * 256 + (8 : Byte).toNat = 8 + ([] : List Byte).length)
    ∧ ((∃ x y : Byte, ([0x81, 0x00, 0, 5] : List Byte) = [0x81, 0x00, x, y])
        ∧ (0x4F : Byte).toNat = 64 + (20 + (zeros 40).length) / 4 ∧ (zeros 40).length % 4 = 0 ∧ (zeros 40).length ≤ 40)
    ∧ (∀ type ∈ [[0x08, 0x00], [0x81, 0x00, 0, 5, 0x08, 0x00]],
        parseFrame (dgram type 0x45 0x40 0 17 8) = some { key := groupKey, payload := [] })
    ∧ (∀ bs ∈ [dgram [0x81, 0x00, 0, 5, 0x81, 0x00, 0, 5, 0x08, 0x00] 0x45 0 0 17 8, dgram [0x86, 0xDD] 0x45 0 0 17 8,
          dgram [0x08, 0x00] 0x45 0x20 0 17 8, dgram [0x08, 0x00] 0x45 0 1 17 8, dgram [0x08, 0x00] 0x45 0 0 6 8,
          dgram [0x08, 0x00] 0x44 0 0 17 8, dgram [0x08, 0x00] 0x4F 0 0 17 8, dgram [0x08, 0x00] 0x45 0 0 17 7],
        parseFrame bs = none)
    ∧ ((settings 2 10).sequence.offset + 8 ≤ (zeros 12).length ∧ ¬(settings 5 10).sequence.offset + 8 ≤ (zeros 12).length
        ∧ (settings 4 10).msgCount = some { offset := 10, width := 2, order := .little } ∧ 10 + 2 ≤ (zeros 12).length
        ∧ ¬11 + 2 ≤ (zeros 12).length ∧ { settings 4 10 with msgCount := none }.msgCount = none) :=
  ⟨by decide, ⟨⟨0, 5, rfl⟩, by decide⟩, by decide⟩

theorem witness_FrameOfAnEndedRunIsDiscarded :
    let f := lineFrame .a 0 1 0 0
    let s := inTable f State.reset
    State.reset.inputOf 1 = none ∧ (s.inputOf 1 = some f ∧ (s.channel 17).on = false ∧ s.waitingOf 1 = none)
    ∧ ((inTable f (State.reset.setChannel 17 { lineChannel none with run := 2 })).channel 17).run ≠ f.run
    ∧ (s.setWaiting 1 (some f)).waitingOf 1 = some f := by decide

/-! The Table -/

/-- A channel with its mode, cap and NextSeq; its resync limit is 100. -/
def tableChannel (mode : Mode) (cap : Nat) (next : Option Nat) : Channel :=
  { on := true, run := 1, nextSeq := next
    settings := { ChannelSettings.reset with mode := mode, entryCap := cap, resyncLimit := 100 } }

def awaitEntry (line : Line) (first count : Nat) : Entry :=
  { channel := 17, kind := .await { line := line, port := 1, stamp := ⟨0, 0⟩, delay := 0, time := State.reset.reading }
    first := first, count := count, deadline := 400000, order := 0 }
def gapEntry (first count : Nat) : Entry :=
  { channel := 17, kind := .gap { port := 1, time := State.reset.reading }, first := first, count := count
    deadline := 800000, order := 0 }

def holding (ch : Channel) (entries : List Entry) (f : Classified) : State :=
  inTable f { State.reset.setChannel 17 ch with entries := entries }

/-- The first of a run; in order, with an entry half the range behind that is passed over; ahead by 1 and by the limit;
straddling by 1 and by the limit; ahead on a channel of cap 1 without and with an entry. -/
theorem witness_FrameReachingNextSeqIsPublished :
    let f (c : Nat) := lineFrame .a 500 c 0 0
    let m := 4294967296
    let s (mode : Mode) (cap : Nat) (next : Option Nat) (es : List Entry) (c : Nat := 1) :=
      holding (tableChannel mode cap next) es (f c)
    let ahead (next : Nat) : Prop := 1 ≤ behindBy m 500 next ∧ behindBy m 500 next < m / 2 ∧ behindBy m 500 next ≤ 100
    let straddles (next c : Nat) : Prop :=
      behindBy m 500 next ≠ 0 ∧ m / 2 ≤ behindBy m 500 next ∧ m - behindBy m 500 next ≤ 100 ∧ m - behindBy m 500 next < c
    let overtaken (next c : Nat) (e : Entry) : Prop := m / 2 < behindBy m next e.first + behindBy m (500 + c) next
    ((s .single 1 none []).Arrives 1 (f 1) ∧ 1 ≤ (f 1).c ∧ ((s .single 1 none []).channel 17).nextSeq = none)
    ∧ ((s .paired 2 (some 500) [awaitEntry .b 2147484148 1]).Arrives 1 (f 1) ∧ behindBy m 500 500 = 0
        ∧ overtaken 500 1 (awaitEntry .b 2147484148 1) ∧ ¬overtaken 500 1 (awaitEntry .b 2147484149 1))
    ∧ ((s .paired 2 (some 499) []).Arrives 1 (f 1) ∧ ahead 499 ∧ ahead 400)
    ∧ ((s .single 2 (some 501) [] 2).Arrives 1 (f 2) ∧ straddles 501 2 ∧ straddles 600 101)
    ∧ ∀ es ∈ [[], [awaitEntry .b 498 1]], (s .paired 1 (some 499) es).Arrives 1 (f 1)
        ∧ (∀ e ∈ (s .paired 1 (some 499) es).collection 17, ¬overtaken 499 1 e)
        ∧ ((s .paired 1 (some 499) es).channelEntries 17).length ≤ 1 ∧ (s .paired 1 (some 499) es).entries.length < 4096 := by
  decide

/-- Behind by 1 and by the limit; no entry, the other line's copy, the winner's line's; a whole gap, its end, its start
and its middle; the last three on a channel of cap 1 in PAIRED mode too. -/
theorem witness_FrameBehindMeetsItsEntry :
    let f := lineFrame .a 500 1 0 0
    let m := 4294967296
    let s (mode : Mode) (cap next : Nat) (es : List Entry) := holding (tableChannel mode cap (some next)) es f
    let behind (next : Nat) : Prop :=
      behindBy m 500 next ≠ 0 ∧ m / 2 ≤ behindBy m 500 next ∧ m - behindBy m 500 next ≤ 100
        ∧ f.c ≤ m - behindBy m 500 next
    let contains (e : Entry) : Prop := behindBy m 500 e.first < e.count
    let meets (mode : Mode) (cap next : Nat) (e : Entry) : Prop :=
      (s mode cap next [e]).Arrives 1 f ∧ behind next ∧ (s mode cap next [e]).channelEntries 17 = [e] ∧ contains e
    ((s .paired 9 501 [gapEntry 499 1]).Arrives 1 f ∧ behind 501 ∧ behind 600 ∧ ¬contains (gapEntry 499 1))
    ∧ (meets .paired 9 501 (awaitEntry .a 500 1) ∧ Line.a = f.line)
    ∧ (meets .paired 9 501 (awaitEntry .b 500 1) ∧ Line.b ≠ f.line)
    ∧ ∀ x ∈ [(Mode.single, 9), (.paired, 9), (.paired, 1)], meets x.1 x.2 501 (gapEntry 500 1)
        ∧ meets x.1 x.2 501 (gapEntry 499 2) ∧ meets x.1 x.2 502 (gapEntry 500 2)
        ∧ meets x.1 x.2 502 (gapEntry 499 3) :=
  ⟨by decide, by decide, by decide, List.forall_mem_cons.2 ⟨⟨by decide, by decide, by decide, by decide⟩,
    List.forall_mem_cons.2 ⟨⟨by decide, by decide, by decide, by decide⟩,
      List.forall_mem_singleton.2 ⟨by decide, by decide, by decide, by decide⟩⟩⟩⟩

/-- One beyond the limit, ahead and behind; a frame in PAIRED mode and a heartbeat; an entry of another channel. -/
theorem witness_FrameFarAwayResynchronises :
    let f (c : Nat) := lineFrame .a 500 c 0 0
    let m := 4294967296
    let other : Entry := { gapEntry 0 1 with channel := 18 }
    let s (next c : Nat) := holding (tableChannel .paired 1 (some next)) [gapEntry 398 1, other] (f c)
    ((s 399 1).Arrives 1 (f 1) ∧ (s 399 0).Arrives 1 (f 0) ∧ 1 ≤ (f 1).c ∧ (f 0).c = 0)
    ∧ (behindBy m 500 399 ≠ 0 ∧ behindBy m 500 399 < m / 2 ∧ 100 < behindBy m 500 399)
    ∧ (behindBy m 500 601 ≠ 0 ∧ m / 2 ≤ behindBy m 500 601 ∧ 100 < m - behindBy m 500 601)
    ∧ (1 ≤ ((s 399 1).channel 17).settings.entryCap
        ∧ ((s 399 1).entries.filter fun e => decide (e.channel ≠ 17)).length < 4096) := by decide

/-- NextSeq unset; in order; ahead by 1 and by the limit, across the wrap; behind by the limit. -/
theorem witness_HeartbeatIsRecordedAndNotPublished :
    let f := lineFrame .a 4294967295 0 0 0
    let m := 4294967296
    let s (next : Option Nat) := holding (tableChannel .paired 9 next) [] f
    ((s none).Arrives 1 f ∧ f.c = 0 ∧ f.s < m ∧ ((s none).channel 17).nextSeq = none)
    ∧ ((s (some 4294967295)).Arrives 1 f ∧ behindBy m f.s 4294967295 = 0)
    ∧ (∀ next ∈ [4294967294, 4294967195], (s (some next)).Arrives 1 f ∧ 1 ≤ behindBy m f.s next
        ∧ behindBy m f.s next < m / 2 ∧ behindBy m f.s next ≤ 100)
    ∧ ((s (some 99)).Arrives 1 f ∧ behindBy m f.s 99 ≠ 0 ∧ m / 2 ≤ behindBy m f.s 99 ∧ m - behindBy m f.s 99 ≤ 100) := by
  decide

/-- Room; the cap reached, with an entry that can leave and with none but the gap being filled; the pool full; each kind
of entry; a channel with its collection; sequences at the end of the range. -/
theorem witness_EntriesAreObtainedAndLeave :
    let s (cap : Nat) (es : List Entry) : State := { State.reset.setChannel 17 (tableChannel .paired cap none) with entries := es }
    let held (t : State) : List Entry := t.entries.filter fun v => decide (v.channel = 17)
    let first (filling : Option (BitVec 32)) (es : List Entry) : Option Entry :=
      (es.filter fun v => decide (some v.order ≠ filling)).head?
    let cap (t : State) : Nat := (t.channel 17).settings.entryCap
    let full : State := s 1 (List.replicate 4096 { gapEntry 0 1 with channel := 18 })
    ((held (s 2 [gapEntry 0 1])).length < cap (s 2 [gapEntry 0 1]) ∧ (s 2 [gapEntry 0 1]).entries.length < 4096)
    ∧ (cap (s 1 [gapEntry 0 1]) ≤ (held (s 1 [gapEntry 0 1])).length
        ∧ first none (held (s 1 [gapEntry 0 1])) = some (gapEntry 0 1))
    ∧ first (some 0) (held (s 1 [gapEntry 0 1])) = none
    ∧ ((held full).length < cap full ∧ 4096 ≤ full.entries.length
        ∧ first none full.entries = some { gapEntry 0 1 with channel := 18 })
    ∧ ((∃ w : Winner, (awaitEntry .a 0 1).kind = .await w) ∧ ∃ o : Opened, (gapEntry 0 1).kind = .gap o)
    ∧ ((0 : Nat) < 4294967296 ∧ 4294967295 < 4294967296) := by
  refine ⟨by decide, by decide, by decide, ⟨?_, ?_, ?_⟩, ⟨⟨_, rfl⟩, _, rfl⟩, by decide⟩
  · have none_held : ((List.replicate 4096 { gapEntry 0 1 with channel := 18 }).filter fun v => decide (v.channel = 17)) = [] :=
      List.filter_replicate_of_neg (by decide)
    exact (congrArg List.length none_held).trans_lt Nat.zero_lt_one
  · exact List.length_replicate.ge
  · have all_old (v : Entry) : ((List.replicate 4096 v).filter fun v => decide (some v.order ≠ none)) = List.replicate 4096 v :=
      List.filter_replicate_of_pos (by simp)
    exact (congrArg List.head? (all_old _)).trans rfl

theorem witness_DueHeadExpires :
    State.reset.entries = [] ∧ reached 399999 (awaitEntry .a 0 1).deadline = false
    ∧ reached 400000 (awaitEntry .a 0 1).deadline = true ∧ reached 800000 (gapEntry 0 1).deadline = true := by decide

/-! The discipline and the Timebase -/

def disciplineIn (state : Quality) (last : Option Count) : Discipline :=
  { Discipline.reset with enabled := true, state := state, lastAccepted := last, timer := last.isSome }

/-- A disabled unit; an edge just outside the window; a first edge; an edge at each end of the window; the expiry one
cycle early and when due. -/
theorem witness_EdgesAreTimedAndMissed :
    let due (now : Count) : Prop :=
      (disciplineIn .locked (some 0)).timer = true ∧ reached now (0 + 800000000) = true
    CycleFraction.wf ⟨15, 16⟩ = true ∧ Discipline.reset.enabled = false
    ∧ ((disciplineIn .locked (some 0)).enabled = true ∧ EdgeKind.rising = (disciplineIn .locked (some 0)).polarity
        ∧ (disciplineIn .locked (some 0)).lastAccepted = some 0
        ∧ ¬ 399600000 ≤ ((399599999 : Count) - 0).toNat ∧ ¬ ((400400001 : Count) - 0).toNat ≤ 400400000)
    ∧ (disciplineIn .holdover none).state = .holdover
    ∧ (399600000 ≤ ((399600000 : Count) - 0).toNat ∧ ((400400000 : Count) - 0).toNat ≤ 400400000)
    ∧ ¬ due 799999999 ∧ due 800000000 ∧ State.reset.discipline.lastAccepted = none := by decide

def edgeAt (ns : Nat) (more : Nat := 0) : Edge :=
  { edgeOf .captured with capture := captureAt 10 (ns * 4294967296 + more) 10737418240 0 }

/-- Errors at the step threshold of 1,000,000 ns and one thirty-second beyond it; a held and a slewed correction; the
corrections of three kinds in the epoch of the capture and in another, LOCKED and in HOLDOVER; a quotient that is a
half. -/
theorem witness_EdgeErrorIsCorrectedOrSetAside :
    let a : Adoption := .reset
    let e (edge : Edge) : Int := errorOf (compose edge.capture a.ppsDelay).q
    let m : Measured := { error := 0, time := State.reset.reading }
    State.reset.discipline.latch = none ∧ (atEdge .captured).discipline.latch = some (edgeOf .captured)
    ∧ ¬ a.stepThreshold * 32 < (e (edgeAt 1000000)).natAbs ∧ a.stepThreshold * 32 < (e (edgeAt 1000000 134217728)).natAbs
    ∧ (a.stepThreshold ≠ 0 ∧ { a with backwardSlew := false }.backwardSlew = false ∧ 0 < e (edgeAt 800))
    ∧ (atEdge .captured).timebase.epoch = (edgeOf .captured).capture.snap.epoch
    ∧ (clocked 0 0 5 0).timebase.epoch ≠ (edgeOf .captured).capture.snap.epoch
    ∧ ((atEdge .captured).discipline.state ≠ .holdover ∧ (disciplineIn .holdover none).state = .holdover)
    ∧ (edgeOf (.handed m (.step 1))).stage = .handed m (.step 1)
    ∧ (edgeOf (.handed m (.slew 1 1))).stage = .handed m (.slew 1 1)
    ∧ (edgeOf (.handed m (.held 1))).stage = .handed m (.held 1)
    ∧ 2 * (roundDiv (-5) 2 * (2 : Nat) - (-5)).natAbs = 2 := by decide

/-- A set-aside edge, a step, and errors at the lock threshold of 100 ns and one thirty-second beyond it. -/
theorem witness_EdgeEndsWithLockTestAndRecord :
    let m (error : Int) : Measured := { error := error, time := State.reset.reading }
    let s (error : Int) (c : Correction) (applied : Bool) : State := atEdge (.answered (m error) c applied 0 0)
    State.reset.discipline.latch = none
    ∧ (s 0 (.held 1) false).discipline.latch = some (edgeOf (.answered (m 0) (.held 1) false 0 0))
    ∧ (s 0 (.step 1) true).discipline.latch = some (edgeOf (.answered (m 0) (.step 1) true 0 0))
    ∧ (s 3200 (.held 1) true).discipline.latch = some (edgeOf (.answered (m 3200) (.held 1) true 0 0))
    ∧ (m 3200).error.natAbs ≤ Adoption.reset.lockThreshold * 32
    ∧ (s (-3201) (.held 1) true).discipline.latch = some (edgeOf (.answered (m (-3201)) (.held 1) true 0 0))
    ∧ ¬ (m (-3201)).error.natAbs ≤ Adoption.reset.lockThreshold * 32
    ∧ (∀ offset : Int, Correction.held 1 ≠ .step offset) := by
  refine ⟨by decide, by decide, by decide, by decide, by decide, by decide, by decide, ?_⟩
  intro offset h
  exact Correction.noConfusion h

def setTimeSlot (ns : Nat) : List Byte := slotOf 0x01 [(8, leBytes 4 4294967295), (12, leBytes 4 ns)]

theorem witness_SetTimeStepsAndReports :
    (handing (setTimeSlot 1000000000) .reset).Holds 0x01 (setTimeSlot 1000000000)
    ∧ 999999999 < leNat (fieldAt (setTimeSlot 1000000000) 12 4)
    ∧ leNat (fieldAt (setTimeSlot 999999999) 12 4) ≤ 999999999 := by decide

theorem witness_AdjustTimeAndSetFrequency :
    let offset (slot : List Byte) : Int := signedOf 4 (leNat (fieldAt slot 8 4))
    let mode (slot : List Byte) : Nat := leNat (fieldAt slot 12 1)
    (handing (adjustSlot (-1000000000) 0) .reset).Holds 0x02 (adjustSlot (-1000000000) 0)
    ∧ 999999999 < (offset (adjustSlot (-1000000000) 0)).natAbs ∧ 1 < mode (adjustSlot 0 2)
    ∧ (¬ 999999999 < (offset (adjustSlot (-999999999) 0)).natAbs ∧ mode (adjustSlot (-999999999) 0) = 0)
    ∧ (¬ 999999999 < (offset (adjustSlot 999999999 1)).natAbs ∧ mode (adjustSlot 999999999 1) = 1)
    ∧ (handing (slotOf 0x03 [(8, leInt 4 200001)]) .reset).Holds 0x03 (slotOf 0x03 [(8, leInt 4 200001)]) := by decide +kernel

def disciplineSlot (enabled threshold : Nat) : List Byte :=
  slotOf 0x04 [(8, leBytes 1 enabled), (12, [0xFF]), (16, leBytes 4 threshold), (20, leBytes 2 501)]

/-- Step threshold 1,000,000,000 and lane 4 refused; then enabling, staying off, and going off with an answered edge, FREE
and not. -/
theorem witness_DisciplineSetTakesItsSettings :
    let m : Measured := { error := 0, time := State.reset.reading }
    let number (slot : List Byte) (offset width : Nat) : Nat := leNat (fieldAt slot offset width)
    let refused (slot : List Byte) : Prop :=
      1 < number slot 8 1 ∨ 1 < number slot 9 1 ∨ 1 < number slot 10 1 ∨ 1 < number slot 11 1
        ∨ (3 < number slot 12 1 ∧ number slot 12 1 ≠ 0xFF) ∨ 999999999 < number slot 16 4
    (handing (disciplineSlot 1 0) .reset).Holds 0x04 (disciplineSlot 1 0)
    ∧ refused (disciplineSlot 1 1000000000) ∧ refused (placeAt (disciplineSlot 1 0) 12 [4])
    ∧ (¬refused (disciplineSlot 1 999999999) ∧ number (disciplineSlot 1 999999999) 8 1 = 1)
    ∧ (¬refused (placeAt (disciplineSlot 0 0) 12 [3]) ∧ number (disciplineSlot 0 0) 8 1 = 0
        ∧ State.reset.discipline.enabled = false)
    ∧ ((atEdge (.answered m (.held 1) true 0 0)).discipline.enabled = true
        ∧ (atEdge (.answered m (.held 1) true 0 0)).discipline.latch = some (edgeOf (.answered m (.held 1) true 0 0)))
    ∧ ((disciplineIn .free none).enabled = true ∧ (disciplineIn .free none).latch = none)
    ∧ (atEdge .captured).discipline.state ≠ .free := by decide

/-! Requests of the ports, the Classifier and the Table -/

def portSlot (port enabled snap : Nat) : List Byte :=
  slotOf 0x10 [(8, leBytes 1 port), (9, leBytes 1 enabled), (10, [3]), (18, leBytes 2 snap)]
def portOnly (code port : Nat) : List Byte := slotOf code [(8, leBytes 1 port)]

/-- Port 8, enable 2 and notice lane 4 refused; settings alone, enabling, disabling; readmission at port 7 in each
state. -/
theorem witness_PortSetAndReadmitTakeEffect :
    let fenced (p : Port) : Port := { p with health := .fenced }
    let number (slot : List Byte) (offset width : Nat) : Nat := leNat (fieldAt slot offset width)
    let refused (slot : List Byte) : Prop :=
      7 < number slot 8 1 ∨ 1 < number slot 9 1 ∨ (3 < number slot 10 1 ∧ number slot 10 1 ≠ 0xFF) ∨ 1 < number slot 11 1
        ∨ 1 < number slot 12 1 ∨ 1 < number slot 13 1 ∨ 1 < number slot 14 1
    (handing (portSlot 8 1 64) .reset).Holds 0x10 (portSlot 8 1 64) ∧ refused (portSlot 8 1 64) ∧ refused (portSlot 7 2 64)
    ∧ refused (placeAt (portSlot 7 1 64) 10 [4])
    ∧ (number (portSlot 7 1 65535) 8 1 = (7 : PortNo) ∧ ¬refused (portSlot 7 1 65535) ∧ number (portSlot 7 1 65535) 9 1 = 1)
    ∧ (¬refused (portSlot 7 0 1) ∧ number (portSlot 7 0 1) 9 1 = 0)
    ∧ (State.reset.port 7).enabled = false ∧ ((atPort 7 (receiving (.reset .up))).port 7).enabled = true
    ∧ (handing (portOnly 0x11 8) .reset).Holds 0x11 (portOnly 0x11 8) ∧ 8 ≤ leNat (fieldAt (portOnly 0x11 8) 8 1)
    ∧ leNat (fieldAt (portOnly 0x11 7) 8 1) = (7 : PortNo) ∧ (State.reset.port 7).health ≠ .fenced
    ∧ (fenced (State.reset.port 7)).health = .fenced ∧ (fenced (receiving (.reset .up))).enabled = true := by decide

def mapSlot (code set report : Nat) : List Byte :=
  slotOf code [(8, leBytes 1 set), (9, leBytes 1 report), (12, leBytes 2 17), (14, leBytes 2 16005), (16, [233, 54, 12, 7])]
def groupEntry : MapEntry := { key := groupKey, channel := 17, line := .a }

/-- A map that holds the key for another line at index 5, and one of 64 other keys. -/
def conflicting : AddressMap := (State.reset.map 0).set 5 (some { groupEntry with line := .b })
def fullMap : AddressMap :=
  Vector.ofFn fun i => some { key := { address := 1, udpPort := BitVec.ofNat 16 i }, channel := 0, line := .b }

/-- A report port outside the set, an empty set and line 2 refused; an empty map, one with a conflict, a full one. -/
theorem witness_MapAddInstallsOrRefusesWhole :
    let slot := mapSlot 0x20 0x81 7
    let number (slot : List Byte) (offset width : Nat) : Nat := leNat (fieldAt slot offset width)
    let refused (slot : List Byte) : Prop :=
      7 < number slot 9 1 ∨ (number slot 8 1).testBit (number slot 9 1) = false ∨ 1 < number slot 10 1
        ∨ 255 < number slot 12 2
    let ports : List PortNo := (List.finRange 8).filter fun k => (number slot 8 1).testBit k
    (handing slot .reset).Holds 0x20 slot
    ∧ (¬refused slot ∧ number slot 9 1 = (7 : PortNo) ∧ number slot 12 2 = (17 : ChannelNo) ∧ ports = [0, 7])
    ∧ refused (mapSlot 0x20 0x81 1) ∧ refused (mapSlot 0x20 0 0) ∧ refused (placeAt slot 10 [2])
    ∧ mapEntry (State.reset.map 7) groupKey = none
    ∧ (mapEntry conflicting groupKey = some { groupEntry with line := .b } ∧ Line.b ≠ groupEntry.line)
    ∧ (mapEntry fullMap groupKey = none ∧ ∀ i : Fin 64, fullMap[i] ≠ none) := by decide

theorem witness_MapRemoveFreesTheKey :
    let slot := mapSlot 0x21 0x80 0
    let key : Key :=
      { address := BitVec.ofNat 32 (beNat (fieldAt slot 16 4)), udpPort := BitVec.ofNat 16 (leNat (fieldAt slot 14 2)) }
    let s := State.reset.setMap 7 conflicting
    (handing slot .reset).Holds 0x21 slot ∧ portSet (leNat (fieldAt (mapSlot 0x21 0 0) 8 1)) = []
    ∧ (portSet (leNat (fieldAt slot 8 1)) = [7] ∧ mapEntry (State.reset.map 7) key = none)
    ∧ mapEntry (s.map 7) key ≠ none
    ∧ ∀ k : PortNo, ((s.map k).toList.filterMap fun e => e.map (·.key)).Nodup := by decide

def patternSlot (offset n : Nat) : List Byte := slotOf 0x22 [(8, leBytes 2 offset), (10, leBytes 1 n)]

/-- No bytes, 33, and one past the end are refused; the last byte, and 32 at the end, are not. -/
theorem witness_PatternLoadReplacesBytes :
    let refused (slot : List Byte) : Prop :=
      leNat (fieldAt slot 10 1) = 0 ∨ 32 < leNat (fieldAt slot 10 1)
        ∨ 256 < leNat (fieldAt slot 8 2) + leNat (fieldAt slot 10 1)
    (handing (patternSlot 255 1) .reset).Holds 0x22 (patternSlot 255 1) ∧ (patternSlot 255 1).length = 64
    ∧ refused (patternSlot 0 0) ∧ refused (patternSlot 0 33) ∧ refused (patternSlot 255 2)
    ∧ ¬ refused (patternSlot 255 1) ∧ ¬ refused (patternSlot 224 32) := by decide

def channelSlot (code ch : Nat) (width : Nat := 4) : List Byte :=
  slotOf code [(8, leBytes 2 ch), (13, leBytes 1 width), (20, leBytes 2 1023), (26, leBytes 2 65535), (40, leBytes 2 4097)]

/-- Channel 256; an ON and an OFF channel; widths 5 and 8, an offset of 1,024, a marker that ends at 257, and an absent
count with an order that is not looked at. -/
theorem witness_ChannelSetTakesItsSettings :
    let number (slot : List Byte) (offset width : Nat) : Nat := leNat (fieldAt slot offset width)
    let refused (slot : List Byte) : Prop := 1 < number slot 10 1 ∨ 3 < number slot 11 1 ∨ 1 < number slot 12 1
      ∨ (number slot 13 1 ≠ 4 ∧ number slot 13 1 ≠ 8) ∨ 1 < number slot 14 1 ∨ 1023 < number slot 20 2
      ∨ (number slot 15 1 ≠ 0 ∧ (2 < number slot 15 1 ∨ 1 < number slot 16 1 ∨ 1023 < number slot 22 2))
      ∨ 8 < number slot 17 1 ∨ 1023 < number slot 24 2 ∨ 256 < number slot 18 1 + number slot 17 1
    (handing (channelSlot 0x23 256) .reset).Holds 0x23 (channelSlot 0x23 256)
    ∧ 256 ≤ number (channelSlot 0x23 256) 8 2 ∧ number (channelSlot 0x23 255) 8 2 = (255 : ChannelNo)
    ∧ ((State.reset.setChannel 255 feedChannel).channel 255).on = true ∧ (State.reset.channel 255).on = false
    ∧ refused (channelSlot 0x23 255 5) ∧ refused (placeAt (channelSlot 0x23 255) 20 [0, 4])
    ∧ refused (placeAt (channelSlot 0x23 255) 17 [8, 249]) ∧ ¬refused (placeAt (channelSlot 0x23 255 8) 17 [8, 248])
    ∧ (¬refused (placeAt (channelSlot 0x23 255) 16 [2]) ∧ number (channelSlot 0x23 255) 11 1 = (0 : LaneNo)) := by
  refine ⟨?_, ?_, ?_, ?_, ?_, ?_, ?_, ?_, ?_, ?_⟩ <;> decide

theorem witness_ChannelStartsAndStops :
    (handing (channelSlot 0x24 256) .reset).Holds 0x24 (channelSlot 0x24 256)
    ∧ (handing (channelSlot 0x25 255) .reset).Holds 0x25 (channelSlot 0x25 255)
    ∧ 256 ≤ leNat (fieldAt (channelSlot 0x24 256) 8 2)
    ∧ leNat (fieldAt (channelSlot 0x24 255) 8 2) = (255 : ChannelNo)
    ∧ (State.reset.channel 255).on = false ∧ ((State.reset.setChannel 255 feedChannel).channel 255).on = true := by decide

/-! Staging and lanes -/

/-- A lane not CLOSED; an allotment of 25, a sum of 4,097; allotments of 26, and a sum of 4,096. -/
theorem witness_PartitionSetDividesTheBuffer :
    let slot (a : List Nat) : List Byte := partitionSlot a [4096, 4, 4096, 4096]
    let allotment (a : List Nat) (l : LaneNo) : Nat := leNat (fieldAt (slot a) (8 + 2 * l) 2)
    let total (a : List Nat) : Nat := allotment a 0 + allotment a 1 + allotment a 2 + allotment a 3
    (handing (slot [26, 26, 26, 26]) .reset).Holds 0x32 (slot [26, 26, 26, 26])
    ∧ ((inLane openLane).lane 1).state ≠ .closed ∧ (∀ l : LaneNo, (State.reset.lane l).state = .closed)
    ∧ allotment [26, 25, 26, 26] 1 < 26 ∧ 4096 < total [4019, 26, 26, 26]
    ∧ (∀ l : LaneNo, ¬ allotment [4018, 26, 26, 26] l < 26) ∧ ¬ 4096 < total [4018, 26, 26, 26] := by decide

/-- A step before a TIME record; an offer to each state of a lane; a need at the limit and one beyond it; a tally; a lane
that is neither CLOSED nor CLOSING; a STEP record before a GAP record of an older epoch and of its own. -/
theorem witness_OfferIsTakenInTurnAndAccountedFor :
    let s (w : LaneState) (fifo : List Record) (tally : Tally) : State :=
      offering smallRecord (inLane { openLane with state := w } fifo tally)
    let o : Offer := ⟨1, .table 30 none, smallRecord⟩
    let two : State := { State.reset with
      offers := [⟨1, .discipline, smallRecord⟩, ⟨1, .discipline, smallRecord⟩] }
    let step (epoch : BitVec 16) : Offer := ⟨1, .timebase, .step
      { cause := .set, oldSec := 0, oldNs := 0, offset := 0, time := { State.reset.reading with epoch := epoch } }⟩
    let gap : Offer := ⟨1, .table 30 none, (gapEntry 0 1).leaving ChannelSettings.reset 0 .expired⟩
    (two.offers[1]? = some ⟨1, .discipline, smallRecord⟩ ∧ two.offerReady 1 ⟨1, .discipline, smallRecord⟩ = false)
    ∧ ((s .closed [] .empty).offers[0]? = some o ∧ (s .closed [] .empty).offerReady 0 o = true)
    ∧ ((s .closed [] .empty).lane 1).state = .closed ∧ ((s .closing [] .empty).lane 1).state = .closing
    ∧ ((s .halted [] .empty).lane 1).state = .halted
    ∧ (((s .opened (List.replicate 30 smallRecord) .empty).lane 1).state = .opened
        ∧ ¬ 30 + smallRecord.blocks - 26 ≤ ((s .opened (List.replicate 30 smallRecord) .empty).stage 1).cap)
    ∧ 29 + smallRecord.blocks - 26 ≤ ((s .opened (List.replicate 29 smallRecord) .empty).stage 1).cap
    ∧ ((s .starved [] .empty).stage 1).tally.dropped = 0
    ∧ (((s .starved [] twoDropped).stage 1).tally.dropped ≠ 0 ∧ twoDropped.first = some ⟨0, 70000, 0⟩
        ∧ twoDropped.last = some ⟨0, 80000, 0⟩)
    ∧ (smallRecord.isDropped = false ∧ ((s .halted [] twoDropped).lane 1).state ≠ .closed
        ∧ ((s .halted [] twoDropped).stage 1).tally.Coherent)
    ∧ (∃ r, gap.record = .gap r)
    ∧ ({ State.reset with offers := [step 1, gap] }.offerReady 1 gap = false
        ∧ { State.reset with offers := [step 0, gap] }.offerReady 1 gap = true
        ∧ { State.reset with offers := [step 0xFFFF, gap] }.offerReady 1 gap = true) := by
  refine ⟨by decide, by decide, by decide, by decide, by decide, by decide, by decide, by decide, by decide, by decide,
    ⟨_, rfl⟩, by decide⟩

/-- The state with one read outstanding, issued at 0. -/
def reading (purpose : ReadPurpose) (length : Nat) (s : State) (wanted : Bool := true) : State :=
  { s with bus := { s.bus with
      reads := [{ tag := 0, purpose := purpose, address := 0x10000, length := length, issued := 0, wanted := wanted }]
      nextTag := 1 } }

def readOf (purpose : ReadPurpose) (length : Nat) (wanted : Bool := true) : ReadOp :=
  { tag := 0, purpose := purpose, address := 0x10000, length := length, issued := 0, wanted := wanted }

/-- A lane that seeks and one that does not; an owner word FREE and READY in each state, at the read's limit, and a read
no longer wanted; a completion one cycle past the limit, of no read, and of a read of another kind. -/
theorem witness_PageIsTakenByItsOwnerWord :
    let s (state : LaneState) (wanted : Bool := true) : State :=
      { reading (.ownerWord 1) 4 (inLane { openLane with state := state } [smallRecord]) wanted with count := 4000000 }
    let idle := inLane openLane [smallRecord]
    ((idle.lane 1).pages[(idle.lane 1).nextPage]? = some 0x10000 ∧ idle.bus.faulted = false)
    ∧ ((idle.lane 1).state = .opened ∧ (idle.stage 1).fifo ≠ [] ∧ (idle.lane 1).current = none ∧ idle.bus.reads = [])
    ∧ ((inLane openLane).stage 1).fifo = []
    ∧ ((s .opened).readOp 0 = some (readOf (.ownerWord 1) 4) ∧ ((s .opened).count - 0).toNat ≤ 4000000)
    ∧ ((s .opened false).readOp 0 = some (readOf (.ownerWord 1) 4 false))
    ∧ ((s .opened).lane 1).state = .opened ∧ ((s .starved).lane 1).state = .starved
    ∧ ((s .closing).lane 1).state = .closing ∧ (2 : BitVec 32) ≠ 1
    ∧ 4000000 < ((4000001 : Count) - (readOf (.ownerWord 1) 4).issued).toNat ∧ (s .opened).readOp 1 = none
    ∧ (∀ l : LaneNo, (readOf .slotState 1).purpose ≠ .ownerWord l) := by decide

def pageAt (used : Nat) : CurrentPage := { address := 0x10000, used := used, records := 1, firstSerial := 0 }

/-- No page; a record that just fits a page of 4,096 bytes, and one 8 bytes short of room. -/
theorem witness_HeadRecordIsWrittenOrClosesThePage :
    let s (used : Nat) := inLane { openLane with current := some (pageAt used) } [smallRecord]
    (openLane.current = none ∧ Lane.reset.state ≠ .opened ∧ Lane.reset.state ≠ .closing)
    ∧ (((s 4048).lane 1).state = .opened ∧ ((s 4048).lane 1).current = some (pageAt 4048)
        ∧ ((s 4048).stage 1).fifo = smallRecord :: [])
    ∧ 4048 + smallRecord.length ≤ 2 ^ ((s 4048).lane 1).exponent
    ∧ 2 ^ ((s 4056).lane 1).exponent < 4056 + smallRecord.length := by decide

/-- One close below the batch and at it, and a holdoff of 0; no current page. -/
theorem witness_PageCloseWritesHeaderAndNotifies :
    let w (batch pending holdoff : Nat) : Lane :=
      { openLane with current := some (pageAt 32), batch := batch, pendingCloses := pending, holdoff := holdoff }
    ((inLane (w 2 1 50)).lane 1).current = some (pageAt 32)
    ∧ (w 2 1 50).batch ≤ (w 2 1 50).pendingCloses + 1 ∧ (w 2 0 0).holdoff = 0
    ∧ ¬ ((w 2 0 1).batch ≤ (w 2 0 1).pendingCloses + 1 ∨ (w 2 0 1).holdoff = 0)
    ∧ (State.reset.lane 1).current = none := by decide

/-- A timer that ends at 1,000, at 999 and at 1,000; a stopped one; a STARVED lane without and with an owner-word read
outstanding. -/
theorem witness_LaneTimersExpire :
    let w : Lane := { openLane with state := .starved, lingerAt := some 1000, holdoffAt := some 1000, rereadAt := some 1000 }
    (w.lingerAt = some 1000 ∧ ((1000 : Count) - 1000).toNat < 2 ^ 63) ∧ ¬ ((999 : Count) - 1000).toNat < 2 ^ 63
    ∧ (w.holdoffAt = some 1000 ∧ w.rereadAt = some 1000 ∧ w.state = .starved ∧ State.reset.bus.reads = []
        ∧ w.pages[w.nextPage]? = some 0x10000)
    ∧ (∃ r ∈ (reading (.ownerWord 1) 4 (inLane w)).bus.reads, r.purpose = .ownerWord 1)
    ∧ openLane.lingerAt = none ∧ openLane.state ≠ .starved := by decide

def openSlot (lane count : Nat) (exponent : Nat := 12) (list : Nat := 0x8000) : List Byte :=
  slotOf 0x30 [(8, leBytes 1 lane), (9, leBytes 1 exponent), (10, leBytes 2 count), (12, leBytes 2 0), (16, leBytes 2 256),
               (24, leBytes 8 list)]

/-- Lane 4; a lane that is not CLOSED; 1, 2, 1,024 and 1,025 pages; exponents 11, 12, 20 and 21; a list address that is
no multiple of 8; the list read, its last page aligned and not; a completion one cycle past the limit, of no read, and
of another length. -/
theorem witness_LaneOpensWithItsPageList :
    let number (slot : List Byte) (offset width : Nat) : Nat := leNat (fieldAt slot offset width)
    let refused (slot : List Byte) : Prop := number slot 10 2 < 2 ∨ 1024 < number slot 10 2 ∨ number slot 9 1 < 12
      ∨ 20 < number slot 9 1 ∨ number slot 24 8 % 8 ≠ 0
    let opening : Opening := { count := 2, exponent := 12, linger := 0, holdoff := 0, batch := 256 }
    let s := { working (reading (.pageList 3) 16 (State.reset.setLane 3 { Lane.reset with opening := some opening })) with
      count := 4000000 }
    let list (last : Nat) : List Byte := leBytes 8 0x1000 ++ leBytes 8 last
    let page (bytes : List Byte) (i : Nat) : Address := BitVec.ofNat 64 (leNat (fieldAt bytes (8 * i) 8))
    (handing (openSlot 4 2) .reset).Holds 0x30 (openSlot 4 2) ∧ 4 ≤ number (openSlot 4 2) 8 1
    ∧ number (openSlot 3 2) 8 1 = (3 : LaneNo) ∧ openLane.state ≠ .closed ∧ (State.reset.lane 3).state = .closed
    ∧ (∀ slot ∈ [openSlot 3 1, openSlot 3 1025, openSlot 3 2 11, openSlot 3 2 21, openSlot 3 2 12 0x8004], refused slot)
    ∧ (∀ slot ∈ [openSlot 3 2, openSlot 3 1024, openSlot 3 2 20], ¬refused slot) ∧ State.reset.bus.faulted = false
    ∧ (s.readOp 0 = some (readOf (.pageList 3) 16) ∧ (s.lane 3).opening = some opening ∧ (s.count - 0).toNat ≤ 4000000
        ∧ s.engine.state = .busy ∧ s.engine.handed = none ∧ (list 0x2000).length = 8 * opening.count)
    ∧ (page (list 0x2001) 1).toNat % 4096 ≠ 0
    ∧ (4000000 < ((4000001 : Count) - (readOf (.pageList 3) 16).issued).toNat ∧ s.readOp 1 = none
        ∧ (zeros 8).length ≠ 8 * opening.count)
    ∧ ∀ i ∈ List.range opening.count, (page (list 0x2000) i).toNat % 4096 = 0 := by decide

def closeSlot (lane discard : Nat) : List Byte := slotOf 0x31 [(8, leBytes 1 lane), (9, leBytes 1 discard)]

/-- Lane 4 and switch 2 refused; each state of the lane; the end of a drain without a tally, and with one: no page, a page
with room for 48 bytes, and one with 8 bytes less; a tally that one report empties, and one that it does not. -/
theorem witness_LaneClosesByDrainOrLoss :
    let closing (current : Option CurrentPage) (tally : Tally) : State :=
      working (inLane { openLane with state := .closing, current := current } [] tally)
    let lane (state : LaneState) : LaneState := ((inLane { openLane with state := state }).lane 1).state
    (handing (closeSlot 4 0) .reset).Holds 0x31 (closeSlot 4 0) ∧ 4 ≤ leNat (fieldAt (closeSlot 4 0) 8 1)
    ∧ 1 < leNat (fieldAt (closeSlot 1 2) 9 1)
    ∧ (leNat (fieldAt (closeSlot 1 0) 8 1) = (1 : LaneNo) ∧ leNat (fieldAt (closeSlot 1 0) 9 1) = 0
        ∧ leNat (fieldAt (closeSlot 1 1) 9 1) = 1)
    ∧ (∀ state ∈ [LaneState.closed, .opened, .starved, .closing, .halted], lane state = state)
    ∧ ((closing none .empty).engine.state = .busy ∧ (closing none .empty).engine.handed = none
        ∧ ((closing none .empty).lane 1).state = .closing ∧ ((closing none .empty).stage 1).fifo = []
        ∧ ((closing none .empty).stage 1).tally.dropped = 0)
    ∧ ((inLane openLane).lane 1).state ≠ .closing
    ∧ (0 < ((closing none twoDropped).stage 1).tally.dropped ∧ twoDropped.first = some ⟨0, 70000, 0⟩
        ∧ twoDropped.last = some ⟨0, 80000, 0⟩ ∧ ((closing none twoDropped).lane 1).current = none)
    ∧ (twoDropped.dropped ≤ 4294967295 ∧ twoDropped.arrivals ≤ 4294967295
        ∧ ¬{ twoDropped with dropped := 4294967296 }.dropped ≤ 4294967295
        ∧ 4294967296 - min 4294967296 4294967295 ≠ 0)
    ∧ (((closing (some (pageAt 4048)) twoDropped).lane 1).current = some (pageAt 4048) ∧ 4048 + 48 ≤ 2 ^ openLane.exponent)
    ∧ 2 ^ openLane.exponent < 4056 + 48 := by decide

/-! The Request Engine and the Bus Interface -/

/-- The engine's states; an answer; no answer; a code outside the table and one in it; nothing handed, a slot of another
code handed, and one of its own code handed to an owner while the engine is STOPPED. -/
theorem witness_RequestCompletesInThreeWrites :
    let known (slot : List Byte) : Prop := slotCode slot ∈ [0x01, 0x02, 0x03, 0x04, 0x10, 0x11, 0x20, 0x21, 0x22, 0x23,
      0x24, 0x25, 0x30, 0x31, 0x32, 0x40]
    let s := handing (slotOf 0x41 []) State.reset
    State.reset.engine.state ≠ .busy
    ∧ (s.engine.state = .busy ∧ s.engine.copy = some (slotOf 0x41 []) ∧ s.bus.faulted = false ∧ s.engine.answer = none)
    ∧ (s.answerWith .ok []).engine.answer = some { outcome := .ok, result := zeros 16 }
    ∧ ¬ known (slotOf 0x41 []) ∧ ¬ known (slotOf 0x00 []) ∧ known (slotOf 0x40 [])
    ∧ State.reset.engine.handed = none ∧ (s.engine.handed = some (slotOf 0x41 []) ∧ slotCode (slotOf 0x41 []) ≠ 0x40)
    ∧ (let u : State := { s with engine := { s.engine with state := .stopped, handed := some (slotOf 0x40 []) } }
       u.engine.handed = some (slotOf 0x40 []) ∧ slotCode (slotOf 0x40 []) = 0x40 ∧ u.engine.state ≠ .busy) := by decide

def idleEngine (s : State) : State :=
  { s with engine := { s.engine with state := .idle }, bus := { s.bus with areaBase := 0x100000 } }
def scanning (left : Nat) (s : State) : State :=
  { idleEngine s with engine := { (idleEngine s).engine with scan := some { slot := 7, left := left } } }

/-- Ready and not; a tick and one cycle later; a STARVED lane and not; a slot POSTED, not POSTED, POSTED and no longer
POSTED when read whole; a read not wanted, and no scan; the last slot of a scan, and not the last; a completion one cycle past
the limit, of no read, of a read of another kind, and of another length. -/
theorem witness_ScanFindsAPostedSlot :
    let s := idleEngine State.reset
    let r (purpose : ReadPurpose) (length : Nat) (wanted : Bool := true) : State :=
      { reading purpose length (scanning 1 State.reset) wanted with count := 4000000 }
    (s.engine.state = .idle ∧ s.bus.areaBase ≠ 0 ∧ s.bus.faulted = false ∧ s.engine.scan = none)
    ∧ State.reset.engine.state ≠ .idle
    ∧ ((40000 : Count).toNat % 40000 = 0 ∧ s.bus.scanTaken = false) ∧ ¬ (40001 : Count).toNat % 40000 = 0
    ∧ (((inLane { openLane with state := .starved }).lane 1).state = .starved ∧ State.reset.bus.reads = []
        ∧ openLane.pages[openLane.nextPage]? = some 0x10000)
    ∧ (State.reset.lane 1).state ≠ .starved
    ∧ ((r .slotState 1).readOp 0 = some (readOf .slotState 1) ∧ ((r .slotState 1).count - 0).toNat ≤ 4000000
        ∧ (r .slotState 1).engine.scan = some { slot := 7, left := 1 })
    ∧ (r .slotState 1 false).readOp 0 = some (readOf .slotState 1 false)
    ∧ ([1] : List Byte).length = 1 ∧ ([2] : List Byte).length = 1
    ∧ ((r .slotWhole 64).readOp 0 = some (readOf .slotWhole 64) ∧ (slotOf 1 []).length = 64
        ∧ leNat (fieldAt (slotOf 1 []) 0 1) ≠ 1 ∧ leNat (fieldAt (placeAt (slotOf 1 []) 0 [1]) 0 1) = 1)
    ∧ State.reset.engine.scan = none
    ∧ (4000000 < ((4000001 : Count) - (readOf .slotState 1).issued).toNat ∧ (r .slotState 1).readOp 1 = none
        ∧ (readOf (.pageList 1) 8).purpose ≠ .slotState ∧ (readOf (.pageList 1) 8).purpose ≠ .slotWhole
        ∧ ([1, 2] : List Byte).length ≠ (readOf .slotState 1).length) := by decide

/-- A value taken, ignored, and held; no register at 28h; CONTROL without and with FRESET; a summary that rises by the
enables or by a cause, and one that does not. -/
theorem witness_RegistersTakeTheirAccesses :
    let b : BusInterface := { BusInterface.reset with cause := 1 }
    (State.reset.bus.faulted = false ∧ (∀ l : LaneNo, (State.reset.lane l).state = .closed)
        ∧ State.reset.engine.state ≠ .busy)
    ∧ (working .reset).engine.state = .busy
    ∧ (State.reset.bus.heldLower = none ∧ (0 : BitVec 32) = State.reset.bus.areaBase.setWidth 32)
    ∧ (ran (.areaBaseWrite (.lowerHalf 0x1000)) .reset).bus.heldLower = some 0x1000
    ∧ 0x28 ∉ [0x00, 0x08, 0x0C, 0x10, 0x18, 0x20, 0x24]
    ∧ (0x7FFFFFFF : BitVec 32).getLsbD 31 = false ∧ (0x80000000 : BitVec 32).getLsbD 31 = true
    ∧ (¬ (b.notify = true ∧ b.cause &&& b.enables ≠ 0) ∧ (0x101 : BitVec 32).getLsbD 0 = true
        ∧ b.cause &&& (0x101 : BitVec 32).extractLsb' 8 8 ≠ 0 ∧ b.message.sending = true)
    ∧ ¬ (b.cause &&& (0x201 : BitVec 32).extractLsb' 8 8 ≠ 0)
    ∧ (let s := ran (.setEnables 0x8001) .reset
       s.bus.summary = false ∧ (s.setCause .fault).bus.summary = true ∧ s.bus.message.sending = true
       ∧ (s.setCause .port).bus.summary = false) := by decide

theorem witness_StatusRefreshWritesTheBlock :
    let s := { idleEngine State.reset with count := 400000 }
    (s.count.toNat % 400000 = 0 ∧ s.bus.refreshTaken = false ∧ s.bus.areaBase ≠ 0 ∧ s.bus.faulted = false)
    ∧ ¬ { s with count := 400001 }.count.toNat % 400000 = 0 := by decide

def snapshotSlot (buffer clear : Nat) : List Byte := slotOf 0x40 [(8, leBytes 8 buffer), (16, leBytes 1 clear)]

def copying (next : Nat) (clear : Bool) : State :=
  let s := working State.reset
  { s with bus :=
    { s.bus with snapshot := some { buffer := 0x8000, clear := clear, next := next, reading := s.reading } } }

/-- Buffers 0 and 4 and option 2 refused; the first and the last counter of a copy. -/
theorem witness_CounterSnapshotCopiesEveryCounter :
    let bad (slot : List Byte) : Prop :=
      leNat (fieldAt slot 8 8) = 0 ∨ leNat (fieldAt slot 8 8) % 8 ≠ 0 ∨ 1 < leNat (fieldAt slot 16 1)
    (handing (snapshotSlot 0 0) .reset).Holds 0x40 (snapshotSlot 0 0) ∧ bad (snapshotSlot 0 0) ∧ bad (snapshotSlot 4 0)
    ∧ bad (snapshotSlot 8 2) ∧ ¬ bad (snapshotSlot 8 1) ∧ State.reset.bus.faulted = false
    ∧ State.reset.bus.snapshot = none
    ∧ (counterAt 0 = some (.port 0 .passed) ∧ (copying 0 true).bus.snapshot ≠ none)
    ∧ (counterAt 3466 = some (.lane 3 .closeDiscards) ∧ (copying 3466 false).engine.state = .busy
        ∧ (copying 3466 false).engine.handed = none) := by decide

/-- At the limit of 4,000,000 cycles, one cycle before and one after, NORMAL and FAULTED; a read not outstanding. -/
theorem witness_ReadFailureFaultsTheBus :
    let s := reading .slotState 1 State.reset
    let faulted := { s with bus := { s.bus with faulted := true } }
    (s.readOp 0 = some (readOf .slotState 1) ∧ s.bus.faulted = false)
    ∧ (faulted.readOp 0 = some (readOf .slotState 1) ∧ faulted.bus.faulted = true)
    ∧ (((4000000 : Count) - 0).toNat ≤ 4000000 ∧ 4000000 ≤ ((4000000 : Count) - 0).toNat)
    ∧ 4000000 < ((4000001 : Count) - 0).toNat ∧ ((3999999 : Count) - 0).toNat < 4000000
    ∧ s.readOp 1 = none := by decide

/-! Arithmetic and formats -/

/-- The extreme increments, delay and subsecond; a result before zero, and exactly zero. -/
theorem witness_CompositionIsOneRounding :
    let c := captureAt 0 4294967295999999999 10744934433 15
    let d := captureAt 0 0 10729902047 0
    (c.snap.sub < Config.oneSecond ∧ 65535 ≤ 65535 ∧ 10729902047 ≤ c.snap.increment ∧ c.snap.increment ≤ 10744934433)
    ∧ (10729902047 ≤ d.snap.increment ∧ (0 * (Config.oneSecond : Int) + 0 - 1 * 134217728 + 67108864) / 134217728 < 0
        ∧ (0 : Int) ≤ (0 * (Config.oneSecond : Int) + 0 - 0 * 134217728 + 67108864) / 134217728) := by decide

/-- Exact leads of 2,147,483,648 and its negative, and of the limits. -/
theorem witness_LeadIsSaturatedDifference :
    let exact (n : Count) (partner winner : Nat) : Int := n.toInt * 80 + 5 * 0 - ((partner : Int) - winner)
    2147483647 < exact 26843546 32 0 ∧ exact (-26843546) 0 32 < -2147483647
    ∧ exact 26843546 33 0 = 2147483647 ∧ exact (-26843546) 0 33 = -2147483647 := by decide

/-- One record of each kind. -/
theorem witness_RecordBytesHoldTheirFields :
    let leaving (e : Entry) : Record := e.leaving ChannelSettings.reset 0 .expired
    let now : DatedTime := State.reset.reading
    smallRecord.isDropped = false ∧ (∃ x, bigRecord = .arrival x)
    ∧ (∃ x, Record.partner (partnerRecord (lineFrame .b 0 1 0 0) (awaitEntry .a 0 1) ⟨.a, 1, ⟨0, 0⟩, 0, now⟩) = .partner x)
    ∧ (∃ x, leaving (gapEntry 0 1) = .gap x) ∧ (∃ x, leaving (awaitEntry .a 0 1) = .lineMiss x)
    ∧ (∃ x, Record.resync { channel := 17, port := 1, line := .a, time := now, oldNext := 0, newNext := 501
                            direction := .ahead, flushed := 2 } = .resync x)
    ∧ (∃ x, Record.dropped { dropped := 2, arrivals := 2, first := ⟨0, 70000, 0⟩, last := ⟨0, 80000, 0⟩, time := now }
        = .dropped x)
    ∧ (∃ x, Record.step { cause := .set, oldSec := 0, oldNs := 0, offset := -1, time := now } = .step x)
    ∧ (∃ x, smallRecord = .port x)
    ∧ ∃ x, Record.time { event := .edge, state := .locked, stepped := false, held := false, setAside := false, error := -1
                         freq := -1, slewNs := -1, time := now } = .time x :=
  ⟨by decide, ⟨_, rfl⟩, ⟨_, rfl⟩, ⟨_, rfl⟩, ⟨_, rfl⟩, ⟨_, rfl⟩, ⟨_, rfl⟩, ⟨_, rfl⟩, ⟨_, rfl⟩, _, rfl⟩

/-! What every step keeps -/

/-- A unit that is LOCKED, at the limits of F and R. -/
def busyTime : State :=
  { State.reset with
    pending := [.oscillatorCycleEnd]
    timebase := { sec := 4294967295, sub := 4294967295999999999, freq := 200000, slew := -2147483648000000000
                  slewRate := 500, epoch := 65535 }
    discipline := { disciplineIn .locked (some 0) with good := 4 } }

theorem witness_StepKeepsTimeInRange :
    busyTime.TimebaseInRange ∧ busyTime.discipline.Coherent ∧ ∃ t : State, step busyTime = .next t :=
  ⟨by decide, by decide, _, rfl⟩

/-- A port in reception with a queued frame. -/
theorem witness_StepKeepsPortsAndMaps :
    let p : Port := { receiving (.reset .up) with
      queue := [{ port := 7, bytes := goodFrame, capture := captureAt 0 0 0 0, settings := PortSettings.reset.frame }] }
    (p.enabled = true ∧ p.windowStart ≠ none ∧ p.windowCount ≤ 4294967295 ∧ p.settings.frame.InRange
        ∧ (∀ x ∈ p.latch, x.settings.InRange) ∧ p.queue.length ≤ Config.handoffRoom
        ∧ ∀ f ∈ p.queue, 64 ≤ f.bytes.length ∧ f.bytes.length ≤ 9600 ∧ fcsGood f.bytes = true ∧ f.settings.InRange)
    ∧ (∀ k : PortNo, (State.reset.port k).Coherent)
    ∧ (∀ k : PortNo, ((State.reset.map k).toList.filterMap fun e => e.map (·.key)).Nodup)
    ∧ ∃ t : State, step { State.reset with pending := [.linkChange 7 .up] } = .next t :=
  ⟨by decide +kernel, by decide, by decide, _, rfl⟩

/-- A channel at its cap, and a lane with 30 blocks in an allotment of 26 and a cap of 4. -/
theorem witness_StepKeepsPoolAndStagingBounded :
    let s := holding (tableChannel .paired 1 (some 501)) [awaitEntry .a 500 1] (lineFrame .a 501 1 0 0)
    let t := inLane openLane (List.replicate 30 smallRecord) twoDropped
    (s.entries.length ≤ Config.poolSize ∧ s.ChannelBounded 17 ∧ s.ChannelBounded 0)
    ∧ t.StagingBounded ∧ ∃ u : State, step { t with pending := [.writeRecord 1] } = .next u :=
  ⟨by decide, by decide, _, rfl⟩

/-- A GAP entry that begins where an AWAIT entry ends, at the end of the range behind NextSeq, and a frame that waits. -/
theorem witness_StepKeepsEntriesBehindAndApart :
    let s := holding (tableChannel .paired 9 (some 0)) [awaitEntry .b 4294967294 1, gapEntry 4294967295 1]
      (lineFrame .a 4294967295 65535 0 0)
    s.EntriesApart ∧ ∃ t : State, step { s with pending := [.tableTakeFrame 1] } = .next t := by
  refine ⟨⟨fun ch => ?_, by decide⟩, _, rfl⟩
  by_cases h : ch = 17
  · subst h
    refine ⟨by decide, by decide, by decide, fun next hn => ?_⟩
    obtain rfl : 0 = next := Option.some.inj hn
    refine ⟨by decide, ?_, by decide⟩
    show ∀ e ∈ [awaitEntry .b 4294967294 1, gapEntry 4294967295 1], _
    rw [List.forall_mem_cons, List.forall_mem_singleton]
    exact ⟨⟨by decide, by decide, fun _ _ => by decide, by simp [awaitEntry]⟩,
      by decide, by decide, by simp [gapEntry], fun _ _ => by decide⟩
  · have quiet : (State.reset.setChannel 17 (tableChannel .paired 9 (some 0))).channel ch = Channel.reset := by
      rw [State.setChannel_channel_of_ne _ _ (Ne.symm h)]
      simp [State.channel, State.reset]
    refine ⟨?_, ?_, ?_, ?_⟩
    · show (State.channel _ ch).settings.Sound
      exact quiet ▸ (by decide : Channel.reset.settings.Sound)
    · intro _; exact (congrArg Channel.nextSeq quiet).trans rfl
    · intro _; simp [State.channelEntries, holding, inTable, awaitEntry, gapEntry, Ne.symm h]
    · intro next hn
      exact nomatch (congrArg Channel.nextSeq quiet).symm.trans hn

/-- Deadlines on both sides of the count's wrap, and equal ones in creation order across the order's wrap. -/
theorem witness_StepKeepsTheExpiryQueueInOrder :
    let at' (e : Entry) (deadline : Count) (order : BitVec 32) : Entry := { e with deadline := deadline, order := order }
    let s : State :=
      { State.reset with
        entries := [at' (awaitEntry .a 0 1) 0xFFFFFFFFFFFFFFFF 0xFFFFFFFE, at' (gapEntry 1 1) 5 0xFFFFFFFF,
                    at' (awaitEntry .a 2 1) 5 0]
        nextOrder := 1, pending := [.oscillatorCycleEnd] }
    let base : Count := 0xFFFFFFFFFFFFFFFF
    let t := stepped s
    s.QueueOrdered
    ∧ (∀ e ∈ s.entries, 1 ≤ (s.nextOrder - e.order).toNat ∧ (s.nextOrder - e.order).toNat ≤ 2 ^ 31 - 3)
    ∧ (∀ e ∈ s.entries, (e.deadline - base).toNat < 2 ^ 63) ∧ (∀ e ∈ t.entries, (e.deadline - base).toNat < 2 ^ 63)
    ∧ ∃ u : State, step s = .next u :=
  ⟨by decide, by decide, by decide, by decide, _, rfl⟩

/-- NORMAL with a scan; FAULTED with a lane HALTED. -/
theorem witness_StepKeepsTheBusCoherent :
    let s := scanning 8 State.reset
    let base := State.reset.setLane 1 { Lane.reset with state := .halted }
    let t := { base with bus := { base.bus with faulted := true } }
    s.BusCoherent ∧ t.BusCoherent ∧ ∃ u : State, step { s with pending := [.causeRead] } = .next u :=
  ⟨by decide, by decide, _, rfl⟩

theorem witness_TimeNeverRunsBackWithinAnEpoch :
    busyTime.TimebaseInRange ∧ busyTime.discipline.Coherent
    ∧ (∃ t : State, exec .oscillatorCycleEnd busyTime = .next t ∧ t.timebase.epoch = busyTime.timebase.epoch)
    ∧ (∃ t : State, exec .setTime (handing (setTimeSlot 0) busyTime) = .next t
        ∧ t.timebase.epoch = busyTime.timebase.epoch + 1) :=
  ⟨by decide, by decide, ⟨_, rfl, by decide⟩, ⟨_, rfl, by decide⟩⟩

/-- FAULTED and NORMAL, without and with a Control Area. -/
theorem witness_FaultedBusIssuesNoMemoryAccess :
    let s := { State.reset with bus := { State.reset.bus with faulted := true } }
    s.bus.faulted = true ∧ (∃ t : State, exec .causeRead s = .next t ∧ t.bus.log = [.reply 0])
    ∧ (∃ t : State, exec .functionReset s = .next t ∧ t.bus.faulted = false)
    ∧ (State.reset.bus.faulted = false ∧ State.reset.bus.areaBase = 0 ∧ (idleEngine .reset).bus.areaBase ≠ 0) :=
  ⟨rfl, ⟨_, rfl, by decide⟩, ⟨_, rfl, by decide⟩, by decide⟩

/-- The summary rises with sending on and off, and does not rise. -/
theorem witness_MessageIsSentWhenSummaryRises :
    let s := { State.reset with bus := { State.reset.bus with cause := 1 } }
    let quiet := { s with bus := { s.bus with message := { s.bus.message with sending := false } } }
    (∃ t : State, exec (.setEnables 0x101) s = .next t ∧ s.bus.summary = false ∧ t.bus.summary = true
        ∧ s.bus.message.sending = true)
    ∧ (∃ t : State, exec (.setEnables 0x101) quiet = .next t ∧ t.bus.summary = true ∧ quiet.bus.message.sending = false)
    ∧ ∃ t : State, exec (.setEnables 0x201) s = .next t ∧ t.bus.summary = false :=
  ⟨⟨_, rfl, by decide⟩, ⟨_, rfl, by decide⟩, ⟨_, rfl, by decide⟩⟩

end Sys2Proof.Tests
end

section
/-! SUPPORT. The ports and the address maps across the operations of the other blocks: both stay as they were. -/

namespace Sys2Proof.Machine

/-- t has the ports and the address maps of s. -/
@[simp] abbrev State.SameIngress (s t : State) : Prop := t.ports = s.ports ∧ t.maps = s.maps

theorem State.Reports.sameIngress {s t : State} (h : s.Reports t) : s.SameIngress t := by rw [h.eq]; exact ⟨rfl, rfl⟩
theorem State.LaneOnly.sameIngress {s t : State} (h : s.LaneOnly t) : s.SameIngress t := by rw [h.eq]; exact ⟨rfl, rfl⟩
theorem State.TableOnly.sameIngress {s t : State} (h : s.TableOnly t) : s.SameIngress t := by rw [h]; exact ⟨rfl, rfl⟩

/-- An owner whose action leaves the ports and maps alone. -/
theorem State.carryOut_sameIngress {act : List Byte → State → State} (h : ∀ slot u, State.SameIngress u (act slot u))
    (code : Nat) (s : State) : s.SameIngress (s.carryOut code act) := by
  unfold State.carryOut
  split
  · split
    · exact h _ { s with engine := { s.engine with handed := none } }
    · exact ⟨rfl, rfl⟩
  · exact ⟨rfl, rfl⟩

/-- So does a fold of steps of which each leaves them alone. -/
theorem foldl_sameIngress {α : Type} {f : State → α → State} (h : ∀ u a, State.SameIngress u (f u a)) (xs : List α)
    (s : State) : s.SameIngress (xs.foldl f s) := by
  induction xs generalizing s with
  | nil => exact ⟨rfl, rfl⟩
  | cons x xs ih => exact ⟨(ih _).1.trans (h s x).1, (ih _).2.trans (h s x).2⟩

/-! ### The Timebase and the discipline -/

@[simp] theorem stepTo_sameIngress (cause : StepCause) (total offset : Int) (s : State) :
    s.SameIngress (stepTo cause total offset s) := by simp [stepTo]

@[simp] theorem stepBy_sameIngress (cause : StepCause) (offset ns : Int) (s : State) :
    s.SameIngress (stepBy cause offset ns s) := by simp [stepBy]

theorem carrySetTime_sameIngress (slot : List Byte) (s : State) : s.SameIngress (carrySetTime slot s) := by
  unfold carrySetTime
  dsimp only
  split <;> simp

theorem carryAdjustTime_sameIngress (slot : List Byte) (s : State) : s.SameIngress (carryAdjustTime slot s) := by
  unfold carryAdjustTime
  dsimp only
  split
  · simp
  · split
    · simp [adjustStep]
    · simp [adjustSlew]

theorem carrySetFrequency_sameIngress (slot : List Byte) (s : State) : s.SameIngress (carrySetFrequency slot s) := by
  simp [carrySetFrequency]

@[simp] theorem State.causeOnChange_sameIngress (s : State) (q : Quality) : s.SameIngress (s.causeOnChange q) := by
  rw [s.causeOnChange_bus q]; exact ⟨rfl, rfl⟩

@[simp] theorem State.offerTime_sameIngress (s : State) (r : TimeRecord) : s.SameIngress (s.offerTime r) := by
  simp [State.offerTime]

theorem captureEdge_sameIngress (within : CycleFraction) (s : State) : s.SameIngress (captureEdge within s) := by
  unfold captureEdge
  split <;> simp

theorem processEdge_sameIngress (e : Edge) (s : State) : s.SameIngress (processEdge e s) := by
  unfold processEdge
  dsimp only
  split <;> simp

@[simp] theorem applyCorrection_sameIngress (c : Correction) (s : State) : s.SameIngress (applyCorrection c s) := by
  cases c <;> simp [applyCorrection]

theorem takeCorrection_sameIngress (e : Edge) (m : Measured) (c : Correction) (s : State) :
    s.SameIngress (takeCorrection e m c s) := by
  unfold takeCorrection
  split <;> simp [State.answerEdge]

@[simp] theorem completeAnswered_sameIngress (s : State) : s.SameIngress (completeAnswered s) := by
  unfold completeAnswered
  split
  · split <;> simp [completeEdge]
  · simp

theorem applyDiscipline_sameIngress (p : DisciplineParams) (s : State) : s.SameIngress (applyDiscipline p s) := by
  unfold applyDiscipline
  split
  · simp
  · split
    · unfold disableDiscipline
      dsimp only
      split <;> simp [State.handSlewRate]
    · simp [State.handSlewRate]

theorem carryDisciplineSet_sameIngress (slot : List Byte) (s : State) : s.SameIngress (carryDisciplineSet slot s) := by
  unfold carryDisciplineSet
  split
  · simp
  · simp [applyDiscipline_sameIngress]

/-! ### The Classifier -/

theorem setAsideUnmapped_sameIngress (f : Frame) (reason : Reason) (s : State) :
    s.SameIngress (setAsideUnmapped f reason s) := by
  unfold setAsideUnmapped
  dsimp only
  split <;> simp

theorem setAsideForeign_sameIngress (f : Frame) (entry : MapEntry) (reason : Reason) (s : State) :
    s.SameIngress (setAsideForeign f entry reason s) := by
  unfold setAsideForeign
  dsimp only
  split <;> simp

@[simp] theorem enterInput_sameIngress (f : Classified) (s : State) : s.SameIngress (enterInput f s) := by
  simp [enterInput]

theorem handToTable_sameIngress (f : Classified) (s : State) : s.SameIngress (handToTable f s) := by
  unfold handToTable
  split <;> simp

/-- The outcome of a classification leaves the ports alone: the head has left its queue before. -/
theorem classify_sameIngress (f : Frame) (s : State) : s.SameIngress (classify f s) := by
  unfold classify
  split
  · exact setAsideUnmapped_sameIngress ..
  · exact setAsideForeign_sameIngress ..
  · exact handToTable_sameIngress ..

theorem carryPatternLoad_sameIngress (slot : List Byte) (s : State) : s.SameIngress (carryPatternLoad slot s) := by
  unfold carryPatternLoad
  dsimp only
  split <;> simp

theorem carryChannelSet_sameIngress (slot : List Byte) (s : State) : s.SameIngress (carryChannelSet slot s) := by
  unfold carryChannelSet
  split
  · simp
  · split
    · simp
    · split <;> simp

theorem carryChannelStart_sameIngress (slot : List Byte) (s : State) : s.SameIngress (carryChannelStart slot s) := by
  unfold carryChannelStart
  split
  · simp
  · dsimp only
    split <;> simp

/-! ### The Arbitration Table -/

@[simp] theorem takeClassified_sameIngress (f : Classified) (s : State) : s.SameIngress (takeClassified f s) := by
  unfold takeClassified
  dsimp only
  split
  · simp
  · exact ((State.TableOnly.refl s).arbitrate f).sameIngress

@[simp] theorem refillInput_sameIngress (k : PortNo) (s : State) : s.SameIngress (refillInput k s) := by
  unfold refillInput
  split <;> simp

theorem takeInput_sameIngress (k : PortNo) (s : State) : s.SameIngress (takeInput k s) := by
  unfold takeInput
  split <;> simp

theorem takeExpiry_sameIngress (s : State) : s.SameIngress (takeExpiry s) := by
  unfold takeExpiry
  split
  · split
    · exact ((State.TableOnly.refl s).removeEntry _ _ _).sameIngress
    · simp
  · simp

theorem carryChannelStop_sameIngress (slot : List Byte) (s : State) : s.SameIngress (carryChannelStop slot s) := by
  unfold carryChannelStop
  split
  · simp
  · split
    · simp [((State.TableOnly.refl s).stopChannel _).sameIngress]
    · simp

/-! ### The Staging Buffer and the Lane Writers -/

theorem carryPartitionSet_sameIngress (slot : List Byte) (s : State) : s.SameIngress (carryPartitionSet slot s) := by
  unfold carryPartitionSet
  dsimp only
  split
  · simp
  · split
    · simp
    · simpa using foldl_sameIngress (fun u l => by simp [setPartition]) _ s

theorem carryLaneOpen_sameIngress (slot : List Byte) (s : State) : s.SameIngress (carryLaneOpen slot s) := by
  unfold carryLaneOpen
  split
  · simp
  · dsimp only
    split
    · simp
    · split
      · simp
      · split <;> simp

theorem pageListRead_sameIngress (l : LaneNo) (o : Opening) (pages : List Address) (s : State) :
    s.SameIngress (pageListRead l o pages s) := by
  unfold pageListRead
  dsimp only
  split <;> simp

@[simp] theorem endClose_sameIngress (l : LaneNo) (outcome : ReqOutcome) (n : Nat) (s : State) :
    s.SameIngress (endClose l outcome n s) := by
  have closed := ((State.LaneOnly.refl (s := s)).closePage l .flush).announceRest l
  simpa [endClose] using closed.sameIngress

@[simp] theorem closeWithLoss_sameIngress (l : LaneNo) (s : State) : s.SameIngress (closeWithLoss l s) := by
  simp [closeWithLoss]

theorem carryLaneClose_sameIngress (slot : List Byte) (s : State) : s.SameIngress (carryLaneClose slot s) := by
  unfold carryLaneClose
  split
  · dsimp only
    split
    · simp
    · split <;> simp
    · simp
    · simp
    · simp
  · simp
  · simp

theorem drainEnd_sameIngress (l : LaneNo) (s : State) : s.SameIngress (drainEnd l s) := by
  have formed : s.LaneOnly (formDropped l s) := State.LaneOnly.refl.formDropped l
  have sought := (formed.seekPage l).sameIngress
  have written := (formed.writeNext l).sameIngress
  unfold drainEnd
  dsimp only
  split
  · simp
  · split <;> split <;> simp [sought, written]

theorem ownerWordRead_sameIngress (l : LaneNo) (r : ReadOp) (word : BitVec 32) (s : State) :
    s.SameIngress (ownerWordRead l r word s) := by
  unfold ownerWordRead
  dsimp only
  split
  · exact (State.LaneOnly.refl.takePage l _).sameIngress
  · split <;> simp

theorem ownerReadDone_sameIngress (l : LaneNo) (r : ReadOp) (word : BitVec 32) (s : State) :
    s.SameIngress (ownerReadDone l r word s) := by
  unfold ownerReadDone
  dsimp only
  split
  · simp [ownerWordRead_sameIngress]
  · exact (((State.LaneOnly.refl.dropRead r.tag).noteAge r).seekPage l).sameIngress

/-! ### The Request Engine and the Bus Interface -/

@[simp] theorem beginScan_sameIngress (s : State) : s.SameIngress (beginScan s) := by
  unfold beginScan
  split <;> simp [readSlotState]

@[simp] theorem passSlot_sameIngress (scan : Scan) (s : State) : s.SameIngress (passSlot scan s) := by
  unfold passSlot
  split <;> simp [readSlotState]

theorem slotReadDone_sameIngress (r : ReadOp) (bytes : List Byte) (s : State) :
    s.SameIngress (slotReadDone r bytes s) := by
  unfold slotReadDone
  split
  · split
    · unfold slotWholeRead
      split <;> simp [takeSlot]
    · unfold slotStateRead
      split <;> simp
  · simp
  · simp

@[simp] theorem completeRequest_sameIngress (slot : List Byte) (a : Answer) (s : State) :
    s.SameIngress (completeRequest slot a s) := by simp [completeRequest]

theorem failRead_sameIngress (r : ReadOp) (s : State) : s.SameIngress (failRead r s) := by
  unfold failRead
  split <;> simp [enterFaulted]

theorem presentArea_sameIngress (v : BitVec 64) (s : State) : s.SameIngress (presentArea v s) := by
  unfold presentArea
  dsimp only
  split <;> simp [setArea]

theorem writeArea_sameIngress (access : AreaWrite) (s : State) : s.SameIngress (writeArea access s) := by
  cases access with
  | whole v => exact presentArea_sameIngress v s
  | lowerHalf v => simp [writeArea]
  | upperHalf v => exact presentArea_sameIngress _ s

/-! ### The Status Block and the counter snapshot -/

theorem refreshStatus_sameIngress (s : State) : s.SameIngress (refreshStatus s) := by
  simpa [refreshStatus] using foldl_sameIngress (fun u f => by simp) (statusFields s (s.bus.refreshCount + 1)) s

theorem copyCounter_sameIngress (c : SnapshotCopy) (name : Counter) (s : State) :
    s.SameIngress (copyCounter c name s) := by
  unfold copyCounter afterCopy
  dsimp only
  split <;> split <;> simp

theorem carrySnapshot_sameIngress (slot : List Byte) (s : State) : s.SameIngress (carrySnapshot slot s) := by
  unfold carrySnapshot
  dsimp only
  split
  · split
    · simp
    · split <;> simp
  · simp

end Sys2Proof.Machine
end

section
/-! SUPPORT. The ports: what their operations leave of a coherent port, and the invariant of the ingress, which every
command keeps (R3, R8 to R10, R12, R18, R71). -/

namespace Sys2Proof.Machine

/-! ### A coherent port -/

theorem Port.reset_coherent (link : LinkState) : (Port.reset link).Coherent := by
  cases link <;> decide

section
variable {p : Port} (h : p.Coherent)
include h

/-- A frame in reception, and a running window, show that the port is ENABLED. -/
theorem Port.Coherent.enabled_of_latch {x : Latch} (l : p.latch = some x) : p.enabled = true := by
  obtain ⟨off, _⟩ := h
  by_contra e
  rw [(off (by simpa using e)).1] at l
  cases l
theorem Port.Coherent.enabled_of_window {n : Count} (w : p.windowStart = some n) : p.enabled = true := by
  obtain ⟨off, _⟩ := h
  by_contra e
  rw [(off (by simpa using e)).2.1] at w
  cases w

/-- Link and health play no part in coherence. -/
theorem Port.Coherent.withLink (link : LinkState) : { p with link := link }.Coherent := h
theorem Port.Coherent.withHealth (health : Health) : { p with health := health }.Coherent := h

theorem Port.Coherent.withoutLatch : { p with latch := none }.Coherent := by
  obtain ⟨off, on, count, range, _, queue⟩ := h
  exact ⟨fun e => ⟨rfl, (off e).2⟩, on, count, range, by simp, queue⟩

/-- A frame taken into the latch of an ENABLED port carries the port's settings. -/
theorem Port.Coherent.withLatch (c : Capture) (e : p.enabled = true) :
    { p with latch := some { capture := c, settings := p.settings.frame } }.Coherent := by
  obtain ⟨_, on, count, range, _, queue⟩ := h
  exact ⟨by simp [e], on, count, range, by simpa using range, queue⟩

/-- An ENABLED port with a window that begins anew, or goes on with another count. -/
theorem Port.Coherent.withWindow (start : Count) (n : Nat) (e : p.enabled = true) (le : n ≤ 4294967295) :
    { p with windowStart := some start, windowCount := n }.Coherent := by
  obtain ⟨_, _, _, rest⟩ := h
  exact ⟨by simp [e], by simp, le, rest⟩
theorem Port.Coherent.withCount (n : Nat) (e : p.enabled = true) (le : n ≤ 4294967295) :
    { p with windowCount := n }.Coherent := by
  obtain ⟨_, on, _, rest⟩ := h
  exact ⟨by simp [e], on, le, rest⟩

/-- A legal frame with a good FCS joins a queue that has room. -/
theorem Port.Coherent.enqueue {f : Frame} (room : p.queue.length < Config.handoffRoom) (low : 64 ≤ f.bytes.length)
    (high : f.bytes.length ≤ 9600) (good : fcsGood f.bytes = true) (range : f.settings.InRange) :
    { p with queue := p.queue ++ [f] }.Coherent := by
  obtain ⟨off, on, count, settings, latched, _, queued⟩ := h
  refine ⟨off, on, count, settings, latched, by simpa using room, fun g hg => ?_⟩
  rcases List.mem_append.mp hg with hg | hg
  · exact queued g hg
  · rw [List.mem_singleton.mp hg]
    exact ⟨low, high, good, range⟩

/-- The Classifier takes the head of the queue. -/
theorem Port.Coherent.dequeue {f : Frame} {rest : List Frame} (q : p.queue = f :: rest) :
    { p with queue := rest }.Coherent := by
  obtain ⟨off, on, count, settings, latched, room, queued⟩ := h
  rw [q] at room queued
  exact ⟨off, on, count, settings, latched, Nat.le_of_succ_le room, fun g hg => queued g (List.mem_cons_of_mem _ hg)⟩

/-- The snap length that PORT_SET applies is in range, whatever was asked for (R18). -/
theorem Port.Coherent.withSettings (given : PortSettings) : (p.withSettings given).Coherent := by
  obtain ⟨off, on, count, _, rest⟩ := h
  have range : appliedSnap given.frame.snap ≤ Config.snapLimit ∧ appliedSnap given.frame.snap % 8 = 0 := by
    simp only [appliedSnap, roundUp8, Config.snapLimit]
    omega
  exact ⟨off, on, count, range, rest⟩

theorem Port.Coherent.enable (start : Count) :
    { p with enabled := true, windowStart := some start, windowCount := 0 }.Coherent := by
  obtain ⟨_, _, _, rest⟩ := h
  exact ⟨by simp, by simp, by simp, rest⟩

theorem Port.Coherent.disable :
    { p with latch := none, enabled := false, windowStart := none, windowCount := 0 }.Coherent := by
  obtain ⟨_, _, _, range, _, queue⟩ := h
  exact ⟨by simp, by simp, by simp, range, by simp, queue⟩

end

/-! ### What the operations of a port change -/

@[simp] theorem portNotice_sameIngress (k : PortNo) (n : Nat) (s : State) : s.SameIngress (portNotice k n s) := by
  simp [portNotice]

/-- The frame in reception is gone, and nothing else of the port. -/
@[simp] theorem abortFrame_port_self (k : PortNo) (s : State) :
    (abortFrame k s).port k = { s.port k with latch := none } := by
  unfold abortFrame
  dsimp only
  split
  · simp
  · rename_i h
    cases hp : s.port k
    simp_all

/-- A discarded frame counts as aborted. -/
theorem abortFrame_eq (k : PortNo) (s : State) :
    abortFrame k s =
      if (s.port k).latch = none then s else (s.setPort k { s.port k with latch := none }).bump (.port k .aborted) := by
  unfold abortFrame
  cases h : (s.port k).latch <;> simp [h]

/-! ### The invariant -/

/-- Every port is coherent, and no map holds a key at two indices. -/
structure State.IngressCoherent (s : State) : Prop where
  ports : s.PortsCoherent
  maps : ∀ k : PortNo, (s.map k).KeysOnce

/-- No frame and no key at all: what a reset leaves. -/
theorem AddressMap.keysOnce_of_empty {m : AddressMap} (h : ∀ i : Fin 64, m[i] = none) : m.KeysOnce := by
  intro i j a b ha
  rw [h i] at ha
  cases ha

/-- A key that a map lacks may join it at one index. -/
theorem AddressMap.KeysOnce.install {m : AddressMap} (h : m.KeysOnce) (e : MapEntry) : (mapInstall m e).KeysOnce := by
  cases held : mapIndex m e.key with
  | some i => rw [mapInstall_held m e i held]; exact h
  | none =>
    cases free : lowestFree m with
    | none => simpa [mapInstall, held, free] using h
    | some n =>
      have lacks := mapIndex_none.mp held
      intro i j a b ha hb same
      rw [(mapInstall_fresh m e n held free).1, mapSet_get] at ha hb
      split at ha <;> split at hb
      · omega
      · cases ha
        exact absurd same.symm (lacks j b hb)
      · cases hb
        exact absurd same (lacks i a ha)
      · exact h i j a b ha hb same

theorem AddressMap.KeysOnce.delete {m : AddressMap} (h : m.KeysOnce) (key : Key) : (mapDelete m key).KeysOnce := by
  unfold mapDelete
  split
  · intro i j a b ha hb same
    rw [mapSet_get] at ha hb
    split at ha <;> split at hb
    · cases ha
    · cases ha
    · cases hb
    · exact h i j a b ha hb same
  · exact h

section
variable {s : State} (h : s.IngressCoherent)
include h

/-- What leaves the ports and maps alone keeps the invariant. -/
theorem State.IngressCoherent.same {t : State} (g : s.SameIngress t) : t.IngressCoherent := by
  obtain ⟨ports, maps⟩ := g
  constructor
  · intro k; rw [State.port, ports]; exact h.ports k
  · intro k; rw [State.map, maps]; exact h.maps k

theorem State.IngressCoherent.setPort (k : PortNo) {p : Port} (hp : p.Coherent) : (s.setPort k p).IngressCoherent := by
  refine ⟨fun j => ?_, h.maps⟩
  by_cases e : k = j
  · subst e; rw [State.setPort_port_self]; exact hp
  · rw [State.setPort_port_of_ne s p e]; exact h.ports j

theorem State.IngressCoherent.bump (c : Counter) : (s.bump c).IngressCoherent := h.same ⟨rfl, rfl⟩

theorem State.IngressCoherent.answerWith (o : ReqOutcome) (fs : List (Nat × List Byte)) :
    (s.answerWith o fs).IngressCoherent := h.same ⟨rfl, rfl⟩

theorem State.IngressCoherent.carryOut (code : Nat) {act : List Byte → State → State}
    (g : ∀ slot u, State.IngressCoherent u → (act slot u).IngressCoherent) : (s.carryOut code act).IngressCoherent := by
  unfold State.carryOut
  split
  · split
    · exact g _ _ (h.same ⟨rfl, rfl⟩)
    · exact h
  · exact h

/-! ### The commands of the ports -/

theorem State.IngressCoherent.abortFrame (k : PortNo) : (abortFrame k s).IngressCoherent := by
  rw [abortFrame_eq]
  split
  · exact h
  · exact (h.setPort k (h.ports k).withoutLatch).bump _

theorem State.IngressCoherent.changeLink (k : PortNo) (link : LinkState) : (changeLink k link s).IngressCoherent := by
  have linked := h.setPort k ((h.ports k).withLink link)
  unfold Machine.changeLink
  dsimp only
  split
  · exact h
  · split <;> split
    · exact (linked.abortFrame k).same (portNotice_sameIngress ..)
    · exact linked.same (portNotice_sameIngress ..)
    · exact linked.abortFrame k
    · exact linked

theorem State.IngressCoherent.latchFrame (k : PortNo) (within : CycleFraction) :
    (latchFrame k within s).IngressCoherent := by
  unfold Machine.latchFrame
  dsimp only
  split
  · exact h.setPort k ((h.ports k).withLatch _ ‹_›)
  · exact h

/-- An error counts on an ENABLED port only: a DISABLED one has no window. -/
theorem State.IngressCoherent.countError (k : PortNo) (e : (s.port k).enabled = true) :
    (countError k s).IngressCoherent := by
  have counted : { s.port k with windowCount := countUp (s.port k).windowCount }.Coherent :=
    (h.ports k).withCount _ e (Nat.min_le_right ..)
  unfold Machine.countError
  dsimp only
  split
  · exact h.setPort k counted
  · rw [State.setPort_setPort]
    exact (h.setPort k (counted.withHealth _)).same (portNotice_sameIngress ..)

theorem State.IngressCoherent.badFrame (f : Frame) (e : (s.port f.port).enabled = true) :
    (badFrame f s).IngressCoherent := by
  have counted := (h.bump (.port f.port .fcsErrors)).countError f.port (by simpa using e)
  unfold Machine.badFrame
  dsimp only
  split
  · exact counted.same (by simp)
  · exact counted

theorem State.IngressCoherent.goodFrame (f : Frame) (low : 64 ≤ f.bytes.length) (high : f.bytes.length ≤ 9600)
    (good : fcsGood f.bytes = true) (range : f.settings.InRange) : (goodFrame f s).IngressCoherent := by
  unfold Machine.goodFrame
  dsimp only
  split
  · exact h.bump _
  · split
    · exact (h.setPort f.port ((h.ports f.port).enqueue ‹_› low high good range)).bump _
    · exact h.bump _

theorem State.IngressCoherent.checkFrame (f : Frame) (e : (s.port f.port).enabled = true) (range : f.settings.InRange) :
    (checkFrame f s).IngressCoherent := by
  unfold Machine.checkFrame
  split
  · exact h.bump _
  · split
    · exact h.bump _
    · split
      · exact h.goodFrame f (by omega) (by omega) ‹_› range
      · exact h.badFrame f e

theorem State.IngressCoherent.endFrame (k : PortNo) (bytes : List Byte) : (endFrame k bytes s).IngressCoherent := by
  unfold Machine.endFrame
  dsimp only
  split
  · rename_i x hx
    have coherent := h.ports k
    refine (h.setPort k coherent.withoutLatch).checkFrame _ ?_ ?_
    · simpa using coherent.enabled_of_latch hx
    · obtain ⟨_, _, _, _, latched, _⟩ := coherent
      exact latched x hx
  · exact h

theorem State.IngressCoherent.endWindow (k : PortNo) (start : Count) (w : (s.port k).windowStart = some start) :
    (endWindow k start s).IngressCoherent := by
  have coherent := h.ports k
  have next := coherent.withWindow (start + BitVec.ofNat 64 Config.errorWindow) 0 (coherent.enabled_of_window w) (by simp)
  unfold Machine.endWindow
  dsimp only
  split
  · exact (h.setPort k (next.withHealth .normal)).same (portNotice_sameIngress ..)
  · exact h.setPort k next

theorem State.IngressCoherent.applyPort (p : PortParams) : (applyPort p s).IngressCoherent := by
  have set := h.setPort p.port ((h.ports p.port).withSettings p.settings)
  unfold Machine.applyPort
  dsimp only
  split
  · exact set
  · split
    · exact (set.setPort _ ((set.ports _).enable _)).same (portNotice_sameIngress ..)
    · refine (set.abortFrame p.port).setPort p.port ?_
      rw [abortFrame_port_self]
      exact (set.ports _).disable

theorem State.IngressCoherent.carryPortSet (slot : List Byte) : (carryPortSet slot s).IngressCoherent := by
  unfold Machine.carryPortSet
  split
  · exact h.answerWith _ _
  · exact (h.applyPort _).answerWith _ _

theorem State.IngressCoherent.readmit (k : PortNo) : (readmit k s).IngressCoherent := by
  unfold Machine.readmit
  dsimp only
  split
  · split
    · exact (h.setPort k (((h.ports k).withWindow s.count 0 ‹_› (by simp)).withHealth .normal)).same
        (portNotice_sameIngress ..)
    · exact h.setPort k ((h.ports k).withHealth .normal)
  · exact h

theorem State.IngressCoherent.carryPortReadmit (slot : List Byte) : (carryPortReadmit slot s).IngressCoherent := by
  unfold Machine.carryPortReadmit
  split
  · exact h.answerWith _ _
  · exact (h.readmit _).answerWith _ _

/-! ### The commands of the Classifier -/

theorem State.IngressCoherent.classifyHead (k : PortNo) : (classifyHead k s).IngressCoherent := by
  unfold Machine.classifyHead
  dsimp only
  split
  · rename_i q
    exact (h.setPort k ((h.ports k).dequeue q)).same (classify_sameIngress ..)
  · exact h
  · exact h

/-- A change of the maps of a set of ports that keeps each key at one index. -/
theorem State.IngressCoherent.changeMaps (ports : List PortNo) {change : AddressMap → AddressMap}
    (keeps : ∀ m : AddressMap, m.KeysOnce → (change m).KeysOnce) : (changeMaps ports change s).IngressCoherent := by
  induction ports generalizing s with
  | nil => exact h
  | cons k ks ih =>
    refine ih (s := s.setMap k (change (s.map k))) ⟨h.ports, fun j => ?_⟩
    by_cases e : k = j
    · subst e; rw [State.setMap_map_self]; exact keeps _ (h.maps k)
    · rw [State.setMap_map_of_ne s _ e]; exact h.maps j

theorem State.IngressCoherent.carryMapAdd (slot : List Byte) : (carryMapAdd slot s).IngressCoherent := by
  unfold Machine.carryMapAdd
  split
  · exact h.answerWith _ _
  · split
    · exact h.answerWith _ _
    · split
      · exact h.answerWith _ _
      · exact (h.changeMaps _ fun _ once => once.install _).answerWith _ _

theorem State.IngressCoherent.carryMapRemove (slot : List Byte) : (carryMapRemove slot s).IngressCoherent := by
  unfold Machine.carryMapRemove
  dsimp only
  split
  · exact h.answerWith _ _
  · split
    · exact h.answerWith _ _
    · exact (h.changeMaps _ fun _ once => once.delete _).answerWith _ _

end

/-! ### The resets -/

/-- After a cold reset every port is DISABLED with its link DOWN. -/
@[simp] theorem coldReset_port (s : State) (k : PortNo) : (coldReset s).port k = .reset .down := by
  simp [coldReset, State.reset, State.port]

/-- After a function reset a port has kept its link state only. -/
@[simp] theorem functionReset_port (s : State) (k : PortNo) : (functionReset s).port k = .reset (s.port k).link := by
  fin_cases k <;> rfl

/-- After a reset no index of a map holds an entry. -/
@[simp] theorem State.reset_map (k : PortNo) : State.reset.map k = .replicate 64 none := by
  simp [State.reset, State.map]
@[simp] theorem coldReset_map (s : State) (k : PortNo) : (coldReset s).map k = State.reset.map k := rfl
@[simp] theorem functionReset_map (s : State) (k : PortNo) : (functionReset s).map k = State.reset.map k := rfl

theorem State.ingressCoherent_coldReset (s : State) : (coldReset s).IngressCoherent := by
  constructor
  · intro k; rw [coldReset_port]; exact Port.reset_coherent _
  · intro k; exact AddressMap.keysOnce_of_empty fun i => by simp

theorem State.ingressCoherent_functionReset (s : State) : (functionReset s).IngressCoherent := by
  constructor
  · intro k; rw [functionReset_port]; exact Port.reset_coherent _
  · intro k; exact AddressMap.keysOnce_of_empty fun i => by simp

end Sys2Proof.Machine
end

section
/-! SUPPORT. Every command keeps the ports coherent and each key at one index of a map. -/

namespace Sys2Proof.Machine

/-- A step carries out the command at the front of the queue, or idles (log 3). -/
theorem step_next_cases {s t : State} (h : step s = .next t) :
    t = s ∨ ∃ (c : Instr) (rest : List Instr), s.pending = c :: rest ∧ exec c { s with pending := rest } = .next t := by
  unfold step at h
  split at h
  · exact .inl (Host.Outcome.next.inj h).symm
  · exact .inr ⟨_, _, ‹_›, h⟩

/-! ### Commands that act only in some states, and leave the ports and maps alone -/

section
variable {s t : State}

theorem execPpsEdge_sameIngress {edge : EdgeKind} {within : CycleFraction} (e : execPpsEdge edge within s = .next t) :
    s.SameIngress t := by
  cases e
  split
  · exact captureEdge_sameIngress ..
  · simp

theorem execEdgeProcess_sameIngress (e : execEdgeProcess s = .next t) : s.SameIngress t := by
  cases e
  split
  · split
    · exact processEdge_sameIngress ..
    · simp
  · simp

theorem execDisciplineCorrection_sameIngress (e : execDisciplineCorrection s = .next t) : s.SameIngress t := by
  cases e
  split
  · split
    · exact takeCorrection_sameIngress ..
    · simp
    · simp
  · simp

theorem execHoldoverExpiry_sameIngress (e : execHoldoverExpiry s = .next t) : s.SameIngress t := by
  cases e
  split
  · simp [enterHoldover]
  · simp

theorem execPageListReadDone_sameIngress {tag : Nat} {bytes : List Byte}
    (e : execPageListReadDone tag bytes s = .next t) : s.SameIngress t := by
  cases e
  split
  · split
    · split
      · split
        · simp [pageListRead_sameIngress]
        · simp
      · simp
    · simp
    · simp
    · simp
  · simp

theorem execCloseDrainEnd_sameIngress {l : LaneNo} (e : execCloseDrainEnd l s = .next t) : s.SameIngress t := by
  cases e
  split
  · exact drainEnd_sameIngress ..
  · simp

theorem execOfferRecord_sameIngress {position : Nat} (e : execOfferRecord position s = .next t) : s.SameIngress t := by
  cases e
  split
  · split
    · rename_i o _ _
      have taken : ∀ u : State, u.SameIngress (seekPage o.lane (takeOffer o u)) := fun u =>
        ((State.LaneOnly.refl.takeOffer o).seekPage o.lane).sameIngress
      exact taken { s with offers := s.offers.eraseIdx position }
    · simp
  · simp

theorem execOwnerWordReadDone_sameIngress {tag : Nat} {word : BitVec 32}
    (e : execOwnerWordReadDone tag word s = .next t) : s.SameIngress t := by
  cases e
  split
  · split
    · split
      · simp
      · exact ownerReadDone_sameIngress ..
    · simp
    · simp
    · simp
  · simp

theorem execStarvedReread_sameIngress {l : LaneNo} (e : execStarvedReread l s = .next t) : s.SameIngress t := by
  cases e
  split
  · exact (State.LaneOnly.refl.reread l).sameIngress
  · simp

theorem execWriteRecord_sameIngress {l : LaneNo} (e : execWriteRecord l s = .next t) : s.SameIngress t := by
  cases e
  split
  · exact (State.LaneOnly.refl.writeNext l).sameIngress
  · simp

theorem execLingerExpiry_sameIngress {l : LaneNo} (e : execLingerExpiry l s = .next t) : s.SameIngress t := by
  cases e
  split
  · exact (State.LaneOnly.refl.lingerEnd l).sameIngress
  · simp

theorem execHoldoffExpiry_sameIngress {l : LaneNo} (e : execHoldoffExpiry l s = .next t) : s.SameIngress t := by
  cases e
  split
  · exact (State.LaneOnly.refl.holdoffEnd l).sameIngress
  · simp

theorem execSlotReadDone_sameIngress {tag : Nat} {bytes : List Byte} (e : execSlotReadDone tag bytes s = .next t) :
    s.SameIngress t := by
  cases e
  split
  · split
    · exact slotReadDone_sameIngress ..
    · simp
  · simp

theorem execRequestComplete_sameIngress (e : execRequestComplete s = .next t) : s.SameIngress t := by
  cases e
  split <;> simp

theorem execBadRequest_sameIngress (e : execBadRequest s = .next t) : s.SameIngress t := by
  cases e
  split
  · split <;> simp
  · simp

theorem execScanTimer_sameIngress (e : execScanTimer s = .next t) : s.SameIngress t := by
  cases e
  split <;> simp

theorem execNudge_sameIngress (e : execNudge s = .next t) : s.SameIngress t := by
  rw [← Host.Outcome.next.inj e]
  have reread : ∀ (u : State) (l : LaneNo), u.SameIngress (reread l u) := fun _ l =>
    (State.LaneOnly.refl.reread l).sameIngress
  simpa using foldl_sameIngress reread (List.finRange 4) (beginScan s)

theorem execStatusRefresh_sameIngress (e : execStatusRefresh s = .next t) : s.SameIngress t := by
  cases e
  split
  · exact refreshStatus_sameIngress { s with bus := { s.bus with refreshTaken := true } }
  · simp

theorem execCounterCopy_sameIngress (e : execCounterCopy s = .next t) : s.SameIngress t := by
  cases e
  split
  · split
    · exact copyCounter_sameIngress ..
    · simp
  · simp

theorem execReadFailure_sameIngress {tag : Nat} (e : execReadFailure tag s = .next t) : s.SameIngress t := by
  cases e
  split
  · split
    · simp
    · exact failRead_sameIngress ..
  · simp

theorem execReadLimitExpiry_sameIngress {tag : Nat} (e : execReadLimitExpiry tag s = .next t) : s.SameIngress t := by
  cases e
  split
  · split
    · exact failRead_sameIngress ..
    · simp
  · simp

end

/-! ### Every command -/

theorem State.IngressCoherent.execErrorWindowEnd {s t : State} (h : s.IngressCoherent) {k : PortNo}
    (e : execErrorWindowEnd k s = .next t) : t.IngressCoherent := by
  cases e
  split
  · split
    · exact h.endWindow k _ ‹_›
    · exact h
  · exact h

/-- A CONTROL write is a function reset when it sets FRESET, and else changes the Bus Interface only. -/
theorem State.IngressCoherent.execSetEnables {s t : State} (h : s.IngressCoherent) {v : BitVec 32}
    (e : execSetEnables v s = .next t) : t.IngressCoherent := by
  cases e
  split
  · exact s.ingressCoherent_functionReset
  · exact h.same ⟨rfl, rfl⟩

/-- Every command keeps the ports coherent and each key at one index of a map. -/
theorem exec_keeps_ingressCoherent {s t : State} (h : s.IngressCoherent) (c : Instr) (e : exec c s = .next t) :
    t.IngressCoherent := by
  cases c with
  | coldReset => cases e; exact s.ingressCoherent_coldReset
  | functionReset => cases e; exact s.ingressCoherent_functionReset
  | oscillatorCycleEnd => cases e; exact h.same ⟨rfl, rfl⟩
  | linkChange port link => cases e; exact h.changeLink port link
  | frameFirstByte port within => cases e; exact h.latchFrame port within
  | endOfFrame port bytes => cases e; exact h.endFrame port bytes
  | errorWindowEnd port => exact h.execErrorWindowEnd e
  | classifyFrame port => cases e; exact h.classifyHead port
  | tableTakeFrame port => cases e; exact h.same (takeInput_sameIngress ..)
  | expiry => cases e; exact h.same (takeExpiry_sameIngress s)
  | ppsEdge edge within => exact h.same (execPpsEdge_sameIngress e)
  | edgeProcess => exact h.same (execEdgeProcess_sameIngress e)
  | disciplineCorrection => exact h.same (execDisciplineCorrection_sameIngress e)
  | edgeComplete => cases e; exact h.same (completeAnswered_sameIngress s)
  | holdoverExpiry => exact h.same (execHoldoverExpiry_sameIngress e)
  | setTime => cases e; exact h.same (State.carryOut_sameIngress carrySetTime_sameIngress ..)
  | adjustTime => cases e; exact h.same (State.carryOut_sameIngress carryAdjustTime_sameIngress ..)
  | setFrequency => cases e; exact h.same (State.carryOut_sameIngress carrySetFrequency_sameIngress ..)
  | disciplineSet => cases e; exact h.same (State.carryOut_sameIngress carryDisciplineSet_sameIngress ..)
  | portSet => cases e; exact h.carryOut _ fun slot _ g => g.carryPortSet slot
  | portReadmit => cases e; exact h.carryOut _ fun slot _ g => g.carryPortReadmit slot
  | mapAdd => cases e; exact h.carryOut _ fun slot _ g => g.carryMapAdd slot
  | mapRemove => cases e; exact h.carryOut _ fun slot _ g => g.carryMapRemove slot
  | patternLoad => cases e; exact h.same (State.carryOut_sameIngress carryPatternLoad_sameIngress ..)
  | channelSet => cases e; exact h.same (State.carryOut_sameIngress carryChannelSet_sameIngress ..)
  | channelStart => cases e; exact h.same (State.carryOut_sameIngress carryChannelStart_sameIngress ..)
  | channelStop => cases e; exact h.same (State.carryOut_sameIngress carryChannelStop_sameIngress ..)
  | laneOpen => cases e; exact h.same (State.carryOut_sameIngress carryLaneOpen_sameIngress ..)
  | pageListReadDone read bytes => exact h.same (execPageListReadDone_sameIngress e)
  | laneClose => cases e; exact h.same (State.carryOut_sameIngress carryLaneClose_sameIngress ..)
  | closeDrainEnd lane => exact h.same (execCloseDrainEnd_sameIngress e)
  | partitionSet => cases e; exact h.same (State.carryOut_sameIngress carryPartitionSet_sameIngress ..)
  | countersSnapshot => cases e; exact h.same (State.carryOut_sameIngress carrySnapshot_sameIngress ..)
  | counterCopy => exact h.same (execCounterCopy_sameIngress e)
  | badRequest => exact h.same (execBadRequest_sameIngress e)
  | scanTimer => exact h.same (execScanTimer_sameIngress e)
  | nudge => exact h.same (execNudge_sameIngress e)
  | slotReadDone read bytes => exact h.same (execSlotReadDone_sameIngress e)
  | requestComplete => exact h.same (execRequestComplete_sameIngress e)
  | areaBaseWrite access => cases e; exact h.same (writeArea_sameIngress access s)
  | setEnables value => exact h.execSetEnables e
  | causeRead => cases e; exact h.same ⟨rfl, rfl⟩
  | ignoredRegisterWrite offset value => cases e; exact h
  | statusRefresh => exact h.same (execStatusRefresh_sameIngress e)
  | readFailure read => exact h.same (execReadFailure_sameIngress e)
  | readLimitExpiry read => exact h.same (execReadLimitExpiry_sameIngress e)
  | offerRecord position => exact h.same (execOfferRecord_sameIngress e)
  | ownerWordReadDone read word => exact h.same (execOwnerWordReadDone_sameIngress e)
  | starvedReread lane => exact h.same (execStarvedReread_sameIngress e)
  | writeRecord lane => exact h.same (execWriteRecord_sameIngress e)
  | lingerExpiry lane => exact h.same (execLingerExpiry_sameIngress e)
  | holdoffExpiry lane => exact h.same (execHoldoffExpiry_sameIngress e)

/-- Settles O53: every command keeps the invariant of the ingress, and an idle step changes nothing. -/
theorem stepKeepsPortsAndMaps : Obligations.StepKeepsPortsAndMaps := by
  intro s t ports maps e
  have kept : t.IngressCoherent := by
    rcases step_next_cases e with rfl | ⟨c, rest, _, he⟩
    · exact ⟨ports, maps⟩
    · exact exec_keeps_ingressCoherent (s := { s with pending := rest }) ⟨ports, maps⟩ c he
  exact ⟨kept.ports, kept.maps⟩

end Sys2Proof.Machine
end

section
/-! SUPPORT. The lamps by the tables of R16 and R49, and what the two resets leave of each block. -/

namespace Sys2Proof.Machine

/-! ### Lamps -/

/-- The rows of R16's table for a port that is ENABLED with its link UP. -/
theorem State.portLampLit_up {s : State} {k : PortNo} (e : (s.port k).enabled = true) (u : (s.port k).link = .up) :
    s.portLampLit k =
      match (s.port k).health with
      | .fenced => blinkLit s.count 800000000 200000000
      | .degraded => blinkLit s.count 200000000 100000000
      | .normal => true := if_neg (by simp [e, u])

/-- The pin of a lit lamp is high exactly when the lamp is active high. -/
theorem drivenHigh_lit (polarity : Polarity) : drivenHigh polarity true = true ↔ polarity = .activeHigh := by
  cases polarity <;> simp [drivenHigh]

/-- Settles O8, row by row of the two tables. -/
theorem lampsFollowTheirTables : Obligations.LampsFollowTheirTables := by
  intro s k
  dsimp only
  refine ⟨fun h => ?dark, fun e u f => ?fenced, fun e u d => ?degraded, fun e u n => ?normal, fun h => ?free,
    fun h => ?acquiring, fun h => ?locked, fun h => ?holdover, fun lit => ?portHigh, fun lit => ?syncHigh⟩
  case dark => exact if_pos h
  case fenced => rw [State.portLampLit_up e u, f]; rfl
  case degraded => rw [State.portLampLit_up e u, d]; rfl
  case normal => rw [State.portLampLit_up e u, n]
  case free | locked => simp only [State.syncLampLit, h]
  case acquiring | holdover => simp only [State.syncLampLit, h]; rfl
  case portHigh => rw [State.portLampHigh, lit]; exact drivenHigh_lit _
  case syncHigh => rw [State.syncLampHigh, lit]; exact drivenHigh_lit _

/-! ### Resets -/

/-- Nothing is in the Table's input and nothing waits after a reset. -/
@[simp] theorem State.reset_inputOf (k : PortNo) : State.reset.inputOf k = none := by simp [State.reset, State.inputOf]
@[simp] theorem State.reset_waitingOf (k : PortNo) : State.reset.waitingOf k = none := by
  simp [State.reset, State.waitingOf]
@[simp] theorem State.reset_channel (ch : ChannelNo) : State.reset.channel ch = .reset := by
  simp [State.reset, State.channel]
@[simp] theorem State.reset_lane (l : LaneNo) : State.reset.lane l = .reset := by simp [State.reset, State.lane]
@[simp] theorem State.reset_stage (l : LaneNo) : State.reset.stage l = .reset := by simp [State.reset, State.stage]
@[simp] theorem State.reset_pattern (i : Fin 256) : State.reset.patterns[i] = 0 := by simp [State.reset]

/-- An empty map hits nothing. -/
theorem State.reset_mapEntry (k : PortNo) (key : Key) : mapEntry (State.reset.map k) key = none := by
  rw [mapEntry_none, mapIndex_none]
  intro i e h
  simp at h

/-- The edge in the latch outlives a function reset when the Timebase has taken its correction (R56). -/
theorem keepAnswered_eq_some (latch : Option Edge) (e : Edge) :
    keepAnswered latch = some e ↔ latch = some e ∧ ∃ m c a f r, e.stage = .answered m c a f r := by
  cases latch with
  | none => simp [keepAnswered]
  | some x =>
    cases stage : x.stage with
    | captured | handed m c =>
      simp only [keepAnswered, stage, Option.some.injEq, reduceCtorEq, false_iff, not_and]
      rintro rfl
      simp [stage]
    | answered m c a f r =>
      simp only [keepAnswered, stage, Option.some.injEq, iff_self_and]
      rintro rfl
      exact ⟨m, c, a, f, r, stage⟩

/-- With no enable set, CONTROL reads 0. -/
theorem BusInterface.control_eq_zero {b : BusInterface} (n : b.notify = false) (e : b.enables = 0) : b.control = 0 := by
  simp [BusInterface.control, n, e]

/-- Settles O4: both resets, block by block. -/
theorem resetsReturnTheBlocks : Obligations.ResetsReturnTheBlocks := by
  refine ⟨fun s => ⟨coldReset s, rfl, ?cold⟩, fun s => ⟨functionReset s, rfl, ?function⟩⟩
  case cold =>
    refine ⟨rfl, rfl, rfl, rfl, Counters.reset_get, fun k => ?ports, State.reset_pattern, State.reset_channel, rfl, rfl,
      rfl, fun l => ⟨State.reset_lane l, State.reset_stage l⟩, rfl, rfl, BusInterface.control_eq_zero rfl rfl, rfl, rfl,
      rfl, rfl, rfl, rfl, rfl, rfl, rfl, rfl, rfl⟩
    have dark : (coldReset s).portLampLit k = false := by simp [State.portLampLit, Port.reset]
    exact ⟨coldReset_port s k, dark, State.reset_inputOf k, State.reset_waitingOf k, State.reset_mapEntry k⟩
  case function =>
    refine ⟨rfl, rfl, rfl, rfl, keepAnswered_eq_some s.discipline.latch, Counters.reset_get, fun k => ?kept,
      State.reset_pattern, State.reset_channel, rfl, rfl, rfl, fun l => ⟨State.reset_lane l, State.reset_stage l⟩, rfl,
      rfl, BusInterface.control_eq_zero rfl rfl, rfl, rfl, rfl, rfl, rfl, rfl, rfl, rfl, rfl, rfl, rfl⟩
    exact ⟨functionReset_port s k, State.reset_inputOf k, State.reset_waitingOf k, State.reset_mapEntry k⟩

end Sys2Proof.Machine
end

section
/-! SUPPORT. The commands of the ports, by value: link changes, first bytes, offers and counters. -/

namespace Sys2Proof.Machine

/-! ### Frames of the shared operations -/

@[simp] theorem State.setPort_reading (s : State) (k : PortNo) (p : Port) : (s.setPort k p).reading = s.reading := rfl
@[simp] theorem State.bump_reading (s : State) (c : Counter) : (s.bump c).reading = s.reading := rfl

/-- A counter other than the no-lane counter of its source stays when a record is offered or discarded. -/
theorem State.offerOrDiscard_get_of_ne (s : State) (l : Option LaneNo) (x : Source) (r : Record) {c : Counter}
    (h : x.noLane ≠ c) : (s.offerOrDiscard l x r).counters.get c = s.counters.get c := by
  cases l with
  | none => exact s.bump_get_of_ne h
  | some l => rfl

theorem portNotice_get_of_ne (k : PortNo) (n : Nat) (s : State) {c : Counter} (h : .port k .noticeNoLane ≠ c) :
    (portNotice k n s).counters.get c = s.counters.get c := by
  simp only [portNotice, State.setCause_counters]
  exact s.offerOrDiscard_get_of_ne _ _ _ h

/-! ### Link changes and first bytes -/

/-- A report of the recorded state is no change (log 14). -/
theorem changeLink_same (k : PortNo) (link : LinkState) (s : State) (h : (s.port k).link = link) :
    changeLink k link s = s := if_pos h

/-- A port whose link has changed: the frame in reception is cut off by DOWN, and an ENABLED port reports (R2, R7). -/
theorem changeLink_changed (k : PortNo) (link : LinkState) (s : State) (h : (s.port k).link ≠ link) :
    let t := s.setPort k { s.port k with link := link }
    let u := if link = .down then abortFrame k t else t
    changeLink k link s = if (s.port k).enabled then portNotice k (s.port k).windowCount u else u := if_neg h

/-- DOWN cuts off the frame in reception, if there is one; any other report leaves the latch alone (R7). -/
theorem abortFrame_on_down (k : PortNo) (link : LinkState) (s : State) :
    let p := s.port k
    let cut := link = .down ∧ p.latch ≠ none
    let t := s.setPort k { p with link := link, latch := if cut then none else p.latch }
    (if link = .down then abortFrame k (s.setPort k { p with link := link }) else s.setPort k { p with link := link }) =
      if cut then t.bump (.port k .aborted) else t := by
  by_cases down : link = .down
  · subst down
    by_cases held : (s.port k).latch = none
    · simp [abortFrame_eq, held]
    · simp [abortFrame_eq, held]
  · simp [down]

/-- The phase of an event within its cycle, in sixteenths rounded down (R5). -/
theorem CycleFraction.phase_bounds (f : CycleFraction) (h : f.num < f.den) :
    (CycleFraction.phase f).toNat * f.den ≤ f.num * 16 ∧ f.num * 16 < ((CycleFraction.phase f).toNat + 1) * f.den := by
  have small : f.num * 16 / f.den < 16 := (Nat.div_lt_iff_lt_mul (by omega)).mpr (by omega)
  rw [CycleFraction.phase, BitVec.toNat_ofNat, Nat.mod_eq_of_lt small]
  exact ⟨Nat.div_mul_le_self .., Nat.lt_mul_of_div_lt (Nat.lt_succ_self _) (by omega)⟩

/-- A counter that gains changes by that much, and no other does. -/
theorem Counters.get_put (cs : Counters) (m n : Counter) (v : Count) :
    (cs.put m v).get n = if n = m then v else cs.get n := by
  split
  · subst n; exact cs.get_put_self m v
  · exact cs.get_put_of_ne v (Ne.symm ‹_›)

/-- Settles O9: link changes, first bytes, and what offering and counting do. -/
theorem linkChangesAndFirstBytesAreTaken : Obligations.LinkChangesAndFirstBytesAreTaken := by
  refine ⟨fun k link s => ?change, fun k within s wf => ⟨fun off => ?disabled, fun on => ?enabled⟩,
    fun source r s => ⟨fun lane => ⟨rfl, rfl⟩, rfl, ?noLane⟩, fun name n s => ⟨rfl, _, rfl, fun c => ?gains⟩⟩
  case change =>
    refine congrArg Host.Outcome.next ?_
    by_cases same : (s.port k).link = link
    · rw [changeLink_same k link s same, if_pos same]
    · rw [changeLink_changed k link s same, if_neg same]
      dsimp only
      rw [abortFrame_on_down]
      by_cases cut : link = .down ∧ (s.port k).latch ≠ none
      · cases (s.port k).enabled <;> simp [portNotice, cut]
      · cases (s.port k).enabled <;> simp [portNotice, cut]
  case disabled => exact congrArg Host.Outcome.next (if_neg (by simp [off]))
  case enabled =>
    have bounds := CycleFraction.phase_bounds within (by simpa [CycleFraction.wf] using wf)
    exact ⟨CycleFraction.phase within, bounds.1, bounds.2, congrArg Host.Outcome.next (if_pos on)⟩
  case noLane => cases source <;> rfl
  case gains =>
    rw [Counters.get_put]
    split <;> simp [*]

end Sys2Proof.Machine
end

section
/-! SUPPORT. The end of a frame, by value: the length check, the FCS check, and what becomes of a good and a bad frame. -/

namespace Sys2Proof.Machine

/-! ### The checks at the end of a frame -/

section
variable (k : PortNo) (bytes : List Byte) (x : Latch) (s : State)

/-- The frame that ends at a port with its latch taken. -/
def Latch.frame : Frame := { port := k, bytes := bytes, capture := x.capture, settings := x.settings }

/-- The state in which a frame that has ended is checked: its port's latch is free again. -/
def State.unlatched : State := s.setPort k { s.port k with latch := none }

theorem endFrame_of_latch (h : (s.port k).latch = some x) :
    endFrame k bytes s = checkFrame (x.frame k bytes) (s.unlatched k) := by
  unfold endFrame
  simp only [h]
  rfl

/-- With no frame latched there is none to check (R3, log 2). -/
theorem endFrame_of_none (h : (s.port k).latch = none) : endFrame k bytes s = s := by
  unfold endFrame
  simp only [h]

end

section
variable (f : Frame) (s : State)

theorem checkFrame_runt (h : f.bytes.length < 64) : checkFrame f s = s.bump (.port f.port .runts) := if_pos h

theorem checkFrame_giant (h : 9600 < f.bytes.length) : checkFrame f s = s.bump (.port f.port .giants) := by
  unfold checkFrame
  rw [if_neg (by omega), if_pos h]

/-- A frame of legal length goes on to the FCS check. -/
theorem checkFrame_legal (low : 64 ≤ f.bytes.length) (high : f.bytes.length ≤ 9600) :
    checkFrame f s = if fcsGood f.bytes then goodFrame f s else badFrame f s := by
  unfold checkFrame
  rw [if_neg (by omega), if_neg (by omega)]

theorem checkFrame_good (low : 64 ≤ f.bytes.length) (high : f.bytes.length ≤ 9600) (good : fcsGood f.bytes = true) :
    checkFrame f s = goodFrame f s := (checkFrame_legal f s low high).trans (if_pos good)

theorem checkFrame_bad (low : 64 ≤ f.bytes.length) (high : f.bytes.length ≤ 9600) (bad : fcsGood f.bytes = false) :
    checkFrame f s = badFrame f s := (checkFrame_legal f s low high).trans (if_neg (by simp [bad]))

/-- A good frame gains one of three counters. -/
theorem goodFrame_get_of_ne {c : Counter}
    (h : ∀ d ∈ [PortCounter.fencedDiscards, .passed, .overruns], .port f.port d ≠ c) :
    (goodFrame f s).counters.get c = s.counters.get c := by
  simp only [List.forall_mem_cons, List.not_mem_nil, false_implies, implies_true, and_true] at h
  obtain ⟨fenced, passed, overruns⟩ := h
  unfold goodFrame
  dsimp only
  split
  · exact s.bump_get_of_ne fenced
  · split
    · exact (s.setPort f.port _).bump_get_of_ne passed
    · exact s.bump_get_of_ne overruns

/-- The error counted in the window gains no counter but that of a notice without a lane. -/
theorem countError_get_of_ne (k : PortNo) {c : Counter} (h : .port k .noticeNoLane ≠ c) :
    (countError k s).counters.get c = s.counters.get c := by
  unfold countError
  dsimp only
  split
  · rfl
  · rw [portNotice_get_of_ne k _ _ h]; rfl

/-- A bad frame gains its own counter and those of a capture. -/
theorem badFrame_get_of_ne {c : Counter} (h : ∀ d ∈ [PortCounter.badCaptured, .noticeNoLane], .port f.port d ≠ c) :
    (badFrame f s).counters.get c = (s.bump (.port f.port .fcsErrors)).counters.get c := by
  simp only [List.forall_mem_cons, List.not_mem_nil, false_implies, implies_true, and_true] at h
  obtain ⟨captured, noLane⟩ := h
  unfold badFrame
  dsimp only
  split
  · rw [State.offerOrDiscard_get_of_ne _ _ (.port f.port) _ noLane, State.bump_get_of_ne _ captured,
      countError_get_of_ne _ _ noLane]
  · exact countError_get_of_ne _ _ noLane

end

/-- Settles O10, by the three ranges of the length. -/
theorem runtsAndGiantsAreDiscarded : Obligations.RuntsAndGiantsAreDiscarded := by
  intro k bytes x s latch
  have ended : exec (.endOfFrame k bytes) s = .next (checkFrame (x.frame k bytes) (s.unlatched k)) :=
    congrArg Host.Outcome.next (endFrame_of_latch k bytes x s latch)
  rw [ended]
  refine ⟨fun runt => ?runt, fun giant => ?giant, fun low high => ⟨_, rfl, ?legal⟩⟩
  case runt => exact congrArg Host.Outcome.next (checkFrame_runt (x.frame k bytes) _ runt)
  case giant => exact congrArg Host.Outcome.next (checkFrame_giant (x.frame k bytes) _ giant)
  case legal =>
    have port : (x.frame k bytes).port = k := rfl
    have counters : (s.unlatched k).counters = s.counters := rfl
    have read : fcsGood (x.frame k bytes).bytes = fcsGood bytes := rfl
    rw [checkFrame_legal (x.frame k bytes) _ low high, read]
    cases fcsGood bytes with
    | true =>
      rw [if_pos rfl, goodFrame_get_of_ne _ _ (by simp), goodFrame_get_of_ne _ _ (by simp),
        goodFrame_get_of_ne _ _ (by simp), counters]
      simp
    | false =>
      rw [if_neg (by simp), badFrame_get_of_ne _ _ (by simp), badFrame_get_of_ne _ _ (by simp),
        badFrame_get_of_ne _ _ (by simp), State.bump_get_of_ne _ (by simp), State.bump_get_of_ne _ (by simp), port,
        State.bump, State.bumpBy_get_self, counters]
      simp

/-! ### Good and bad frames -/

/-- The health after an error, by R13's table. -/
theorem Health.afterThreshold_eq (h : Health) (fence : Bool) :
    h.afterThreshold fence = if fence then .fenced else if h = .normal then .degraded else h := by
  cases h <;> cases fence <;> rfl

/-- The health that an error leaves: by R13's table once the window count has come to a non-zero threshold. -/
def Port.healthAfter (p : Port) (n : Nat) : Health :=
  if p.settings.threshold = 0 ∨ n < p.settings.threshold then p.health
  else if p.settings.fence then .fenced
  else if p.health = .normal then .degraded
  else p.health

section
variable (p : Port) {n : Nat}

theorem Port.healthAfter_quiet (h : p.settings.threshold = 0 ∨ n < p.settings.threshold) :
    p.healthAfter n = p.health := if_pos h

theorem Port.healthAfter_reached (h : ¬(p.settings.threshold = 0 ∨ n < p.settings.threshold)) :
    p.healthAfter n = p.health.afterThreshold p.settings.fence := by
  rw [Health.afterThreshold_eq]
  exact if_neg h

end

/-- An FCS error, the health by R13's table; a change of health is reported. -/
theorem countError_eq (k : PortNo) (s : State) :
    let p := s.port k
    let n := min (p.windowCount + 1) 4294967295
    let t := s.setPort k { p with windowCount := n, health := p.healthAfter n }
    countError k s = if p.healthAfter n = p.health then t else portNotice k n t := by
  unfold countError countUp
  dsimp only
  by_cases quiet : (s.port k).settings.threshold = 0
      ∨ min ((s.port k).windowCount + 1) 4294967295 < (s.port k).settings.threshold
  · have stays := (s.port k).healthAfter_quiet quiet
    rw [if_pos (quiet.imp_right .inl), stays, if_pos rfl]
  · rw [(s.port k).healthAfter_reached quiet]
    by_cases same : (s.port k).health.afterThreshold (s.port k).settings.fence = (s.port k).health
    · rw [if_pos (.inr (.inr same)), if_pos same, same]
    · rw [if_neg (by tauto), if_neg same, State.setPort_setPort]

/-- A frame with a bad FCS (R9, R11, R13): the error counted, then the capture. -/
theorem badFrame_unlatched (f : Frame) (s : State) :
    let p := s.port f.port
    let n := min (p.windowCount + 1) 4294967295
    let t0 :=
      (s.setPort f.port { p with latch := none, windowCount := n, health := p.healthAfter n }).bump
        (.port f.port .fcsErrors)
    let t1 := if p.healthAfter n = p.health then t0 else portNotice f.port n t0
    badFrame f (s.unlatched f.port) =
      if f.settings.badFrame = .capture then
        (t1.bump (.port f.port .badCaptured)).offerOrDiscard f.settings.noticeLane (.port f.port)
          (f.notice { badFcs := true } .none)
      else t1 := by
  unfold badFrame
  rw [countError_eq]
  simp only [State.unlatched, State.bump_port, State.setPort_port_self, State.bump_setPort, State.setPort_setPort]
  rfl

/-! ### The FCS -/

/-- The polynomial in reflected order. -/
theorem crcBit_eq (r : BitVec 32) :
    crcBit r = if r.getLsbD 0 then (r >>> 1) ^^^ (0x04C11DB7#32).reverse else r >>> 1 := by
  rw [show (0x04C11DB7#32).reverse = 0xEDB88320#32 by
    simp [BitVec.reverse, BitVec.concat, BitVec.msb_eq_decide]]
  rfl

/-- A byte enters the register bit by bit. -/
theorem crcByte_eq (r : BitVec 32) (b : Byte) : crcByte r b = crcBit^[8] (r ^^^ b.setWidth 32) := rfl

/-- Settles O11: the FCS check as a CRC, and what becomes of a good and a bad frame. -/
theorem legalFrameIsPassedCountedOrCaptured : Obligations.LegalFrameIsPassedCountedOrCaptured := by
  refine ⟨fun k bytes x s latch low high good => ?good, fun k bytes x s latch low high bad => ?bad, fun bytes => ?fcs,
    fun k bytes s none => congrArg Host.Outcome.next (endFrame_of_none k bytes s none)⟩
  case good =>
    refine congrArg Host.Outcome.next ?_
    rw [endFrame_of_latch k bytes x s latch, checkFrame_good (x.frame k bytes) _ low high good]
    simp only [goodFrame, Latch.frame, State.unlatched, State.setPort_port_self, State.setPort_setPort]
    rfl
  case bad =>
    refine congrArg Host.Outcome.next ?_
    rw [endFrame_of_latch k bytes x s latch, checkFrame_bad (x.frame k bytes) _ low high bad]
    refine (badFrame_unlatched (x.frame k bytes) s).trans ?_
    simp only [portNotice, State.bump_port, State.bump_reading, State.setPort_port_self, State.setPort_reading]
    rfl
  case fcs =>
    simp only [← crcBit_eq, ← crcByte_eq]
    exact decide_eq_true_iff

end Sys2Proof.Machine
end

section
/-! SUPPORT. The end of an error window, and the requests of the ports, by value. -/

namespace Sys2Proof.Machine

/-! ### The error window -/

section
variable {k : PortNo} {s : State}

/-- A port that runs no window ends none (log 2). -/
theorem execErrorWindowEnd_none (h : (s.port k).windowStart = none) : execErrorWindowEnd k s = .next s := by
  simp only [execErrorWindowEnd, h]

/-- A running window ends when the count has reached its end, and not before (R12, log 40). -/
theorem execErrorWindowEnd_some {start : Count} (h : (s.port k).windowStart = some start) :
    execErrorWindowEnd k s = .next (if reached s.count (start + 400000000) then endWindow k start s else s) := by
  simp only [execErrorWindowEnd, h]
  rfl

/-- The recovery of a DEGRADED port whose window had too few errors (R14). -/
theorem endWindow_recovers {start : Count} (d : (s.port k).health = .degraded)
    (few : (s.port k).settings.threshold = 0 ∨ (s.port k).windowCount < (s.port k).settings.threshold) :
    endWindow k start s =
      portNotice k (s.port k).windowCount
        (s.setPort k
          { s.port k with windowStart := some (start + 400000000), windowCount := 0, health := .normal }) :=
  if_pos ⟨d, few⟩

/-- In every other case the health stays (R14). -/
theorem endWindow_stays {start : Count}
    (h : ¬((s.port k).health = .degraded
      ∧ ((s.port k).settings.threshold = 0 ∨ (s.port k).windowCount < (s.port k).settings.threshold))) :
    endWindow k start s = s.setPort k { s.port k with windowStart := some (start + 400000000), windowCount := 0 } :=
  if_neg h

end

/-- Settles O12, by the recovery decision of R14. -/
theorem windowEndAppliesRecovery : Obligations.WindowEndAppliesRecovery := by
  intro k s
  refine ⟨execErrorWindowEnd_none, fun start running => ⟨fun early => ?early, fun ended => ?ended⟩⟩
  case early =>
    exact (execErrorWindowEnd_some running).trans (congrArg Host.Outcome.next (if_neg (Bool.eq_false_iff.mp early)))
  case ended =>
    have ends : exec (.errorWindowEnd k) s = .next (endWindow k start s) :=
      (execErrorWindowEnd_some running).trans (congrArg Host.Outcome.next (if_pos ended))
    rw [ends]
    refine ⟨fun degraded few => ?_, fun _ threshold many => ?_, fun other => ?_⟩
    · rw [endWindow_recovers degraded few]
      simp [portNotice]
    · rw [endWindow_stays (by omega)]
    · rw [endWindow_stays (by rcases other with h | h <;> simp [h])]

/-! ### Parameters with few codes -/

theorem twoValued_of_le {α : Type} {code : Nat} (a b : α) (h : code ≤ 1) :
    twoValued code a b = some (if code = 0 then a else b) := by
  unfold twoValued
  split
  · rfl
  · exact if_pos (by omega)

theorem le_of_twoValued {α : Type} {code : Nat} {a b x : α} (h : twoValued code a b = some x) : code ≤ 1 := by
  unfold twoValued at h
  split at h
  · omega
  · split at h
    · omega
    · cases h

theorem switch?_of_le {code : Nat} (h : code ≤ 1) : switch? code = some (decide (code = 1)) := by
  rw [switch?, twoValued_of_le _ _ h]
  split
  · simp [*]
  · simp [show code = 1 by omega]

@[simp] theorem portNo?_val (k : PortNo) : portNo? k = some k := dif_pos k.isLt

theorem portNo?_none {n : Nat} (h : 8 ≤ n) : portNo? n = none := dif_neg (by omega)

theorem lt_of_portNo? {n : Nat} {k : PortNo} (h : portNo? n = some k) : n < 8 := by
  by_contra large
  rw [portNo?_none (by omega)] at h
  cases h

/-- A notice lane: one of the four, or none for FFh. -/
theorem laneOrNone?_of_valid {n : Nat} (h : ¬(3 < n ∧ n ≠ 255)) :
    laneOrNone? n = some (if h : n < 4 then some ⟨n, h⟩ else none) := by
  unfold laneOrNone? laneNo?
  by_cases none : n = 255
  · subst none; rfl
  · have lane : n < 4 := by omega
    simp [none, lane]

theorem valid_of_laneOrNone? {n : Nat} {l : Option LaneNo} (h : laneOrNone? n = some l) : ¬(3 < n ∧ n ≠ 255) := by
  rintro ⟨high, other⟩
  unfold laneOrNone? laneNo? at h
  rw [if_neg other, dif_neg (by omega)] at h
  cases h

/-! ### The parameters of PORT_SET -/

/-- A parameter of PORT_SET is out of its range (R18, R172). -/
def portRefused (slot : List Byte) : Prop :=
  7 < slotField slot 8 1 ∨ 1 < slotField slot 9 1 ∨ (3 < slotField slot 10 1 ∧ slotField slot 10 1 ≠ 0xFF)
    ∨ 1 < slotField slot 11 1 ∨ 1 < slotField slot 12 1 ∨ 1 < slotField slot 13 1 ∨ 1 < slotField slot 14 1

theorem portParams_of_refused {slot : List Byte} (h : portRefused slot) : portParams slot = none := by
  by_contra taken
  obtain ⟨p, hp⟩ := Option.ne_none_iff_exists'.mp taken
  simp only [portParams, Option.bind_eq_bind, Option.bind_eq_some_iff] at hp
  obtain ⟨_, port, _, enable, _, lane, _, unmapped, _, badFrame, _, fence, _, lamp, _⟩ := hp
  have port := lt_of_portNo? port
  have enable := le_of_twoValued enable
  have lane := valid_of_laneOrNone? lane
  have unmapped := le_of_twoValued unmapped
  have badFrame := le_of_twoValued badFrame
  have fence := le_of_twoValued fence
  have lamp := le_of_twoValued lamp
  unfold portRefused at h
  omega

/-- The settings that a slot asks for, the snap length as given (R18, R172). -/
def slotPortSettings (slot : List Byte) : PortSettings :=
  { frame :=
      { delay := slotField slot 16 2
        noticeLane := if h : slotField slot 10 1 < 4 then some ⟨slotField slot 10 1, h⟩ else none
        unmapped := if slotField slot 11 1 = 0 then .ignore else .capture
        badFrame := if slotField slot 12 1 = 0 then .ignore else .capture, snap := slotField slot 18 2 }
    threshold := slotField slot 20 2, fence := decide (slotField slot 13 1 = 1)
    lampPolarity := if slotField slot 14 1 = 0 then .activeHigh else .activeLow }

/-- The parameters of PORT_SET for a port (R18, R172). -/
def slotPortParams (slot : List Byte) (k : PortNo) : PortParams :=
  { port := k, enabled := decide (slotField slot 9 1 = 1), settings := slotPortSettings slot }

theorem portParams_of_valid {slot : List Byte} {k : PortNo} (hk : slotField slot 8 1 = k) (h : ¬portRefused slot) :
    portParams slot = some (slotPortParams slot k) := by
  simp only [portRefused, not_or] at h
  obtain ⟨_, enable, lane, unmapped, badFrame, fence, lamp⟩ := h
  simp only [portParams, hk, portNo?_val, switch?_of_le (Nat.le_of_not_lt enable), laneOrNone?_of_valid lane,
    twoValued_of_le _ _ (Nat.le_of_not_lt unmapped), twoValued_of_le _ _ (Nat.le_of_not_lt badFrame),
    switch?_of_le (Nat.le_of_not_lt fence), twoValued_of_le _ _ (Nat.le_of_not_lt lamp), Option.bind_eq_bind,
    Option.bind_some, slotPortParams, slotPortSettings]

/-! ### What PORT_SET and PORT_READMIT do to the port -/

/-- A PORT record built while an owner carries out a request. -/
theorem portNotice_begun (k : PortNo) (n : Nat) (s : State) : portNotice k n s.begun = (portNotice k n s).begun := by
  unfold portNotice
  dsimp only
  cases h : (s.port k).settings.frame.noticeLane with
  | none => simp only [show s.begun.port k = s.port k from rfl, h]; rfl
  | some l => simp only [show s.begun.port k = s.port k from rfl, h]; rfl

@[simp] theorem portNotice_engine (k : PortNo) (n : Nat) (s : State) : (portNotice k n s).engine = s.engine := by
  simp [portNotice]

@[simp] theorem portNotice_port (k j : PortNo) (n : Nat) (s : State) : (portNotice k n s).port j = s.port j := by
  simp [portNotice]

section
variable (p : PortParams) (s : State)

/-- The port with the settings that PORT_SET gives it. -/
abbrev PortParams.given : Port := (s.port p.port).withSettings p.settings

/-- The enable does not change: the settings alone do. -/
theorem applyPort_same (h : (s.port p.port).enabled = p.enabled) : applyPort p s = s.setPort p.port (p.given s) :=
  if_pos h.symm

/-- DISABLED to ENABLED (R3). -/
theorem applyPort_enable (off : (s.port p.port).enabled = false) (on : p.enabled = true) :
    applyPort p s =
      portNotice p.port 0
        (s.setPort p.port { p.given s with enabled := true, windowStart := some s.count, windowCount := 0 }) := by
  simp [applyPort, enablePort, off, on]

/-- ENABLED to DISABLED (R3, R7). -/
theorem applyPort_disable (on : (s.port p.port).enabled = true) (off : p.enabled = false) :
    applyPort p s =
      let t := s.setPort p.port
        { p.given s with enabled := false, windowStart := none, windowCount := 0, latch := none }
      if (s.port p.port).latch = none then t else t.bump (.port p.port .aborted) := by
  have latch : (p.given s).latch = (s.port p.port).latch := rfl
  by_cases held : (s.port p.port).latch = none
  · simp [applyPort, disablePort, abortFrame_eq, on, off, held, latch]
  · simp [applyPort, disablePort, abortFrame_eq, on, off, held, latch, State.bump_setPort]

/-- PORT_SET leaves link, health and the Request Engine alone, and sets the enable as asked. -/
theorem applyPort_keeps :
    (applyPort p s).engine = s.engine ∧ ((applyPort p s).port p.port).link = (s.port p.port).link
      ∧ ((applyPort p s).port p.port).health = (s.port p.port).health
      ∧ ((applyPort p s).port p.port).enabled = p.enabled := by
  cases was : (s.port p.port).enabled <;> cases now : p.enabled
  case true.false =>
    rw [applyPort_disable p s was now]
    dsimp only
    split <;> simp [Port.withSettings]
  case false.true => rw [applyPort_enable p s was now]; simp [Port.withSettings]
  all_goals rw [applyPort_same p s (was.trans now.symm)]; simp [Port.withSettings, was]

/-- The owner carries PORT_SET out in the state in which it has taken the request. -/
theorem applyPort_begun : applyPort p s.begun = (applyPort p s).begun := by
  have same : s.begun.port p.port = s.port p.port := rfl
  cases was : (s.port p.port).enabled <;> cases now : p.enabled
  case true.false =>
    rw [applyPort_disable p s was now, applyPort_disable p s.begun was now, same]
    dsimp only
    split <;> rfl
  case false.true =>
    rw [applyPort_enable p s was now, applyPort_enable p s.begun was now, ← portNotice_begun]
    rfl
  all_goals rw [applyPort_same p s (was.trans now.symm), applyPort_same p s.begun (was.trans now.symm)]; rfl

end

section
variable {k : PortNo} {s : State}

/-- PORT_READMIT acts on a FENCED port only (R19). -/
theorem readmit_of_not_fenced (h : (s.port k).health ≠ .fenced) : readmit k s = s := if_neg h

theorem readmit_disabled (fenced : (s.port k).health = .fenced) (off : (s.port k).enabled = false) :
    readmit k s = s.setPort k { s.port k with health := .normal } := by
  simp [readmit, fenced, off]

theorem readmit_enabled (fenced : (s.port k).health = .fenced) (on : (s.port k).enabled = true) :
    readmit k s =
      portNotice k 0
        (s.setPort k { s.port k with health := .normal, windowStart := some s.count, windowCount := 0 }) := by
  simp [readmit, fenced, on]

end

/-- The link as PORT_SET reports it (R172). -/
theorem Port.reportedLink_of_disabled {p : Port} (h : p.enabled = false) : p.reportedLink = 0 := if_neg (by simp [h])
theorem Port.reportedLink_of_enabled {p : Port} (h : p.enabled = true) :
    p.reportedLink = match p.link with
      | .down => 1
      | .up => 2 := if_pos h

/-- The bytes of PORT_SET's result (R172). -/
theorem resultOf_portSet (snap link health : Nat) :
    resultOf [(48, leBytes 2 snap), (50, leBytes 1 link), (51, leBytes 1 health)] =
      leBytes 2 snap ++ leBytes 1 link ++ leBytes 1 health ++ zeros 12 := by
  rw [resultOf_eq _ (by simp [Ordered])]
  simp [filled]

/-- The bytes of PORT_READMIT's result (R172). -/
theorem resultOf_portReadmit (health : Nat) : resultOf [(48, leBytes 1 health)] = leBytes 1 health ++ zeros 15 := by
  rw [resultOf_eq _ (by simp [Ordered])]
  simp [filled]

section
variable {s : State} {slot : List Byte}

theorem execPortSet_refused (h : s.Holds 0x10 slot) (r : portRefused slot) :
    exec .portSet s = .next (s.returns .badParam (zeros 16)) := by
  refine congrArg Host.Outcome.next ((h.carryOut carryPortSet).trans ?_)
  unfold carryPortSet
  rw [portParams_of_refused r]
  exact s.begun_answerWith .badParam [] h.busy

/-- An accepted PORT_SET: the change of the port, and the result by value (R18, R172). -/
theorem execPortSet_taken (h : s.Holds 0x10 slot) {p : PortParams} (taken : portParams slot = some p) :
    let snap := appliedSnap p.settings.frame.snap
    let t := applyPort p s
    exec .portSet s =
      .next (t.returns (if snap = p.settings.frame.snap then .ok else .adjusted)
        (leBytes 2 snap ++ leBytes 1 (t.port p.port).reportedLink ++ leBytes 1 (s.port p.port).health.code
          ++ zeros 12)) := by
  obtain ⟨engine, _, health, _⟩ := applyPort_keeps p s
  refine congrArg Host.Outcome.next ((h.carryOut carryPortSet).trans ?_)
  unfold carryPortSet
  rw [taken]
  dsimp only
  rw [applyPort_begun, State.begun_answerWith _ _ _ (by rw [engine]; exact h.1), resultOf_portSet,
    show (applyPort p s).begun.port p.port = (applyPort p s).port p.port from rfl, health]

theorem execPortReadmit_refused (h : s.Holds 0x11 slot) (r : 8 ≤ slotField slot 8 1) :
    exec .portReadmit s = .next (s.returns .badParam (zeros 16)) := by
  refine congrArg Host.Outcome.next ((h.carryOut carryPortReadmit).trans ?_)
  unfold carryPortReadmit
  rw [portNo?_none r]
  exact s.begun_answerWith .badParam [] h.busy

/-- A readmission while an owner carries out a request. -/
theorem readmit_begun (k : PortNo) (s : State) : readmit k s.begun = (readmit k s).begun := by
  have same : s.begun.port k = s.port k := rfl
  by_cases fenced : (s.port k).health = .fenced
  · cases enabled : (s.port k).enabled with
    | false => rw [readmit_disabled fenced enabled, readmit_disabled (s := s.begun) fenced enabled]; rfl
    | true =>
      rw [readmit_enabled fenced enabled, readmit_enabled (s := s.begun) fenced enabled, ← portNotice_begun]
      rfl
  · rw [readmit_of_not_fenced fenced, readmit_of_not_fenced (s := s.begun) fenced]

/-- A readmission leaves the Request Engine alone. -/
theorem readmit_engine (k : PortNo) (s : State) : (readmit k s).engine = s.engine := by
  by_cases fenced : (s.port k).health = .fenced
  · cases enabled : (s.port k).enabled with
    | false => rw [readmit_disabled fenced enabled]; rfl
    | true => rw [readmit_enabled fenced enabled]; simp
  · rw [readmit_of_not_fenced fenced]

theorem execPortReadmit_taken (h : s.Holds 0x11 slot) {k : PortNo} (hk : slotField slot 8 1 = k) :
    exec .portReadmit s =
      .next ((readmit k s).returns .ok (leBytes 1 ((readmit k s).port k).health.code ++ zeros 15)) := by
  refine congrArg Host.Outcome.next ((h.carryOut carryPortReadmit).trans ?_)
  unfold carryPortReadmit
  rw [hk, portNo?_val]
  dsimp only
  rw [readmit_begun, State.begun_answerWith _ _ _ (by rw [readmit_engine]; exact h.1), resultOf_portReadmit]
  rfl

end

/-- Settles O28: the ranges of PORT_SET, its four changes of a port, and PORT_READMIT by the health. -/
theorem portSetAndReadmitTakeEffect : Obligations.PortSetAndReadmitTakeEffect := by
  refine ⟨fun slot s held => ⟨execPortSet_refused held, fun k hk valid => ?set⟩,
    fun slot s held => ⟨execPortReadmit_refused held, fun k hk => ?readmit⟩⟩
  case set =>
    have taken := execPortSet_taken held (portParams_of_valid hk valid)
    obtain ⟨_, link, _, enabled⟩ := applyPort_keeps (slotPortParams slot k) s
    have asked (n : Nat) (h : leNat (fieldAt slot 9 1) = n) : (slotPortParams slot k).enabled = decide (n = 1) := by
      rw [← h]; rfl
    refine ⟨fun off was => ?_, fun on was => ?_, fun on was => ?_, fun off was => ?_⟩
    · have now : (slotPortParams slot k).enabled = false := asked 0 off
      rw [taken, Port.reportedLink_of_disabled (enabled.trans now), applyPort_same _ s (was.trans now.symm)]
      rfl
    · have now : (slotPortParams slot k).enabled = true := asked 1 on
      rw [taken, Port.reportedLink_of_enabled (enabled.trans now), link, applyPort_same _ s (was.trans now.symm)]
      rfl
    · have now : (slotPortParams slot k).enabled = true := asked 1 on
      rw [taken, Port.reportedLink_of_enabled (enabled.trans now), link, applyPort_enable _ s was now]
      simp only [portNotice, State.setPort_port_self, State.setPort_reading]
      rfl
    · have now : (slotPortParams slot k).enabled = false := asked 0 off
      rw [taken, Port.reportedLink_of_disabled (enabled.trans now), applyPort_disable _ s was now]
      rfl
  case readmit =>
    dsimp only
    rw [execPortReadmit_taken held hk]
    refine ⟨fun normal => ?_, fun degraded => ?_, fun fenced off => ?_, fun fenced on => ?_⟩
    · rw [readmit_of_not_fenced (by simp [normal]), normal]; rfl
    · rw [readmit_of_not_fenced (by simp [degraded]), degraded]; rfl
    · rw [readmit_disabled fenced off, State.setPort_port_self]; rfl
    · rw [readmit_enabled fenced on]
      simp only [portNotice, State.setPort_port_self, State.setPort_reading, State.setCause_port,
        State.offerOrDiscard_port]
      rfl

end Sys2Proof.Machine
end

section
/-! SUPPORT. The Timebase within a cycle: rounding, the increment and its limits, the slew's bias and its end, and the DTC
at the end of the cycle. -/

namespace Sys2Proof.Machine

/-! ### Rounding -/

/-- A quotient rounded to the nearest integer lies within half a divisor of the exact one (00 Rounding). -/
theorem roundDiv_nearest (num : Int) {den : Nat} (h : 0 < den) :
    2 * (roundDiv num den * den - num).natAbs ≤ den := by
  have half (n : Int) : 2 * ((2 * n + den) / (2 * den) * den - n).natAbs ≤ den := by
    have pos : (0 : Int) < 2 * den := by omega
    have lower := Int.ediv_mul_le (2 * n + den) pos.ne'
    have upper := Int.lt_ediv_add_one_mul_self (2 * n + den) pos
    rw [add_mul] at upper
    rw [mul_left_comm] at lower upper
    omega
  unfold roundDiv
  split
  · exact half num
  · have mirrored := half (-num)
    rw [neg_mul]
    omega

/-! ### The terms of the increment -/

theorem freqTerm_nearest (f : Int) : 2 * (freqTerm f * 100000000 - f * 1073741824).natAbs ≤ 100000000 :=
  roundDiv_nearest _ (by decide)

theorem fullBias_nearest (rate : Nat) : 2 * (fullBias rate * 100000 - rate * 1073741824).natAbs ≤ 100000 :=
  roundDiv_nearest _ (by decide)

theorem fullBias_nonneg (rate : Nat) : 0 ≤ fullBias rate := by
  have := fullBias_nearest rate
  omega

theorem fullBias_pos {rate : Nat} (h : 1 ≤ rate) : 0 < fullBias rate := by
  have := fullBias_nearest rate
  omega

theorem fullBias_le {rate : Nat} (h : rate ≤ 500) : fullBias rate ≤ 5368709 := by
  have := fullBias_nearest rate
  omega

theorem freqTerm_inRange {f : Int} (h : f.natAbs ≤ Config.freqLimit) :
    -2147484 ≤ freqTerm f ∧ freqTerm f ≤ 2147484 := by
  have := freqTerm_nearest f
  rw [Config.freqLimit] at h
  omega

/-- The bias is R brought within the full bias (R26). -/
theorem State.bias_eq (s : State) :
    s.bias = clampInt (-fullBias s.timebase.slewRate) (fullBias s.timebase.slewRate) s.timebase.slew := by
  have := fullBias_nonneg s.timebase.slewRate
  unfold State.bias slewBias State.slewRate clampInt
  split
  · omega
  · split
    · split <;> omega
    · omega

theorem State.bias_of_slew_zero {s : State} (h : s.timebase.slew = 0) : s.bias = 0 := if_pos h

theorem State.increment_of_slew_zero {s : State} (h : s.timebase.slew = 0) :
    s.increment = 10737418240 + freqTerm s.timebase.freq := by
  rw [State.increment, State.bias_of_slew_zero h, Int.add_zero]
  rfl

section
variable {s : State} (h : s.TimebaseInRange)
include h

theorem State.TimebaseInRange.fullBias_pos : 0 < fullBias s.timebase.slewRate := by
  obtain ⟨_, _, _, _, _, least, _⟩ := h
  exact Machine.fullBias_pos least

theorem State.TimebaseInRange.bias_inRange : -5368709 ≤ s.bias ∧ s.bias ≤ 5368709 := by
  obtain ⟨_, _, _, _, _, _, most⟩ := h
  have := fullBias_le most
  have := fullBias_nonneg s.timebase.slewRate
  rw [s.bias_eq, clampInt]
  omega

theorem State.TimebaseInRange.increment_inRange : 10729902047 ≤ s.increment ∧ s.increment ≤ 10744934433 := by
  have bias := h.bias_inRange
  obtain ⟨_, freq, _⟩ := h
  have term := freqTerm_inRange freq
  simp only [State.increment, Config.nominalIncrement]
  omega

end

/-- Settles O5: the limits of the two corrections bound the increment. -/
theorem incrementIsNominalPlusCorrections : Obligations.IncrementIsNominalPlusCorrections := by
  intro s h
  have limits : s.timebase.freq.natAbs ≤ Config.freqLimit := h.2.1
  obtain ⟨termLow, termHigh⟩ := freqTerm_inRange limits
  obtain ⟨biasLow, biasHigh⟩ := h.bias_inRange
  exact ⟨rfl, freqTerm_nearest _, termLow, termHigh, biasLow, biasHigh, h.increment_inRange⟩

/-! ### The end of a cycle -/

section
variable (s : State)

@[simp] theorem cycleEnd_slew : (cycleEnd s).timebase.slew = s.timebase.slew - s.bias := rfl
@[simp] theorem cycleEnd_slewRate : (cycleEnd s).timebase.slewRate = s.discipline.active.slewRate := rfl
@[simp] theorem cycleEnd_discipline : (cycleEnd s).discipline = s.discipline := rfl

end

section
variable {s : State} (h : s.TimebaseInRange)
include h

/-- The subsecond stays below a second: the increment is below one (R22). -/
theorem State.TimebaseInRange.cycleEnd_sub : (cycleEnd s).timebase.sub < Config.oneSecond := by
  have increment := h.increment_inRange
  obtain ⟨sub, _⟩ := h
  unfold cycleEnd
  dsimp only
  split <;> simp only [Config.oneSecond] at * <;> omega

/-- The DTC gains the increment, modulo 2^32 seconds (R22). -/
theorem State.TimebaseInRange.cycleEnd_total :
    (cycleEnd s).timebase.total = (s.timebase.total + s.increment) % (4294967296 * Config.oneSecond : Nat) := by
  have increment := h.increment_inRange
  obtain ⟨sub, _⟩ := h
  have sec := s.timebase.sec.isLt
  have one : (1 : BitVec 32).toNat = 1 := rfl
  unfold Timebase.total cycleEnd
  dsimp only
  split <;> simp only [Config.oneSecond, BitVec.toNat_add, one] at * <;> omega

end

/-- Settles O6: the DTC as one number is the one thing that takes arithmetic. -/
theorem cycleEndAdvancesCountAndTime : Obligations.CycleEndAdvancesCountAndTime :=
  ⟨fun s h => ⟨cycleEnd s, rfl, rfl, h.cycleEnd_total, h.cycleEnd_sub, rfl, rfl, rfl, rfl, rfl⟩, fun _ => ⟨rfl, rfl⟩⟩

/-! ### The end of a slew -/

/-- What has been applied is what R has lost, to the sub-unit (R26). -/
theorem sum_bias_cycleEnd (s : State) (n : Nat) :
    ((List.range n).map fun i => (cycleEnd^[i] s).bias).sum = s.timebase.slew - (cycleEnd^[n] s).timebase.slew := by
  induction n with
  | zero => simp
  | succ n ih =>
    rw [List.range_succ, List.map_append, List.sum_append, ih, Function.iterate_succ_apply', cycleEnd_slew]
    simp only [List.map_cons, List.map_nil, List.sum_cons, List.sum_nil]
    omega

/-- Over cycles without a new setting, S governs on (R27). -/
theorem iterate_cycleEnd_slewRate {s : State} (h : s.discipline.active.slewRate = s.timebase.slewRate) (n : Nat) :
    (cycleEnd^[n] s).discipline = s.discipline ∧ (cycleEnd^[n] s).timebase.slewRate = s.timebase.slewRate := by
  induction n with
  | zero => exact ⟨rfl, rfl⟩
  | succ n ih =>
    obtain ⟨settings, _⟩ := ih
    rw [Function.iterate_succ_apply', cycleEnd_discipline, cycleEnd_slewRate, settings]
    exact ⟨rfl, h⟩

/-- A cycle takes the full bias off the magnitude of R, or all that is left of it. -/
theorem cycleEnd_slew_natAbs (s : State) :
    (cycleEnd s).timebase.slew.natAbs = s.timebase.slew.natAbs - (fullBias s.timebase.slewRate).toNat := by
  have := fullBias_nonneg s.timebase.slewRate
  rw [cycleEnd_slew, s.bias_eq, clampInt]
  omega

theorem iterate_cycleEnd_slew_natAbs {s : State} (h : s.discipline.active.slewRate = s.timebase.slewRate) (n : Nat) :
    (cycleEnd^[n] s).timebase.slew.natAbs = s.timebase.slew.natAbs - n * (fullBias s.timebase.slewRate).toNat := by
  induction n with
  | zero => simp
  | succ n ih =>
    obtain ⟨_, rate⟩ := iterate_cycleEnd_slewRate h n
    rw [Function.iterate_succ_apply', cycleEnd_slew_natAbs, rate, ih, Nat.sub_sub, Nat.succ_mul]

/-- Settles O7: the bias by the size of R, and the slew's end by the magnitude that each cycle takes off. -/
theorem slewEndsAfterItsCycles : Obligations.SlewEndsAfterItsCycles := by
  intro s n h full r
  have pos : 0 < full := h.fullBias_pos
  have bias : s.bias = clampInt (-full) full r := s.bias_eq
  rw [clampInt] at bias
  refine ⟨fullBias_nearest _, fun _ => rfl, rfl, rfl, rfl,
    fun zero => ⟨State.bias_of_slew_zero zero, State.increment_of_slew_zero zero⟩, fun large => by omega,
    fun large => by omega, fun low high => by omega, sum_bias_cycleEnd s n, fun settled => ?_⟩
  have left := iterate_cycleEnd_slew_natAbs settled n
  rw [← Int.natAbs_eq_zero, left, Nat.sub_eq_zero_iff_le, ← Nat.ceilDiv_eq_add_pred_div,
    ceilDiv_le_iff_le_mul (Int.pos_iff_toNat_pos.mp pos), Nat.mul_comm]

end Sys2Proof.Machine
end

section
/-! SUPPORT. The Timebase and the discipline across the operations of the other blocks: both stay as they were. -/

namespace Sys2Proof.Machine

/-- t has the Timebase and the discipline of s. -/
@[simp] abbrev State.SameTime (s t : State) : Prop := t.timebase = s.timebase ∧ t.discipline = s.discipline

theorem State.SameTime.rfl {s : State} : s.SameTime s := ⟨Eq.refl _, Eq.refl _⟩

theorem State.SameTime.trans {s t u : State} (h : s.SameTime t) (g : t.SameTime u) : s.SameTime u :=
  ⟨g.1.trans h.1, g.2.trans h.2⟩

theorem State.Reports.sameTime {s t : State} (h : s.Reports t) : s.SameTime t := by rw [h.eq]; exact .rfl
theorem State.LaneOnly.sameTime {s t : State} (h : s.LaneOnly t) : s.SameTime t := by rw [h.eq]; exact .rfl
theorem State.TableOnly.sameTime {s t : State} (h : s.TableOnly t) : s.SameTime t := ⟨h.timebase, h.discipline⟩

/-- An operation that leaves the time alone, carried out only where a condition holds. -/
theorem State.SameTime.ite {s t : State} {c : Prop} [Decidable c] (h : s.SameTime t) :
    s.SameTime (if c then t else s) := by
  split
  · exact h
  · exact .rfl

/-- An owner whose action leaves the time alone. -/
theorem State.carryOut_sameTime {act : List Byte → State → State} (h : ∀ slot u, State.SameTime u (act slot u))
    (code : Nat) (s : State) : s.SameTime (s.carryOut code act) := by
  unfold State.carryOut
  split
  · split
    · exact h _ { s with engine := { s.engine with handed := none } }
    · exact .rfl
  · exact .rfl

/-- So does a fold of steps of which each leaves it alone. -/
theorem foldl_sameTime {α : Type} {f : State → α → State} (h : ∀ u a, State.SameTime u (f u a)) (xs : List α)
    (s : State) : s.SameTime (xs.foldl f s) := by
  induction xs generalizing s with
  | nil => exact .rfl
  | cons x xs ih => exact (h s x).trans (ih _)

/-! ### The ports -/

@[simp] theorem portNotice_sameTime (k : PortNo) (n : Nat) (s : State) : s.SameTime (portNotice k n s) := by
  simp [portNotice]

@[simp] theorem abortFrame_sameTime (k : PortNo) (s : State) : s.SameTime (abortFrame k s) := by
  rw [abortFrame_eq]
  split <;> simp

theorem changeLink_sameTime (k : PortNo) (link : LinkState) (s : State) : s.SameTime (changeLink k link s) := by
  unfold changeLink
  dsimp only
  split
  · exact .rfl
  · split <;> split <;> simp

theorem latchFrame_sameTime (k : PortNo) (within : CycleFraction) (s : State) : s.SameTime (latchFrame k within s) := by
  unfold latchFrame
  dsimp only
  split <;> simp

@[simp] theorem countError_sameTime (k : PortNo) (s : State) : s.SameTime (countError k s) := by
  unfold countError
  dsimp only
  split <;> simp

theorem checkFrame_sameTime (f : Frame) (s : State) : s.SameTime (checkFrame f s) := by
  have good : s.SameTime (goodFrame f s) := by
    unfold goodFrame
    dsimp only
    split
    · simp
    · split <;> simp
  have bad : s.SameTime (badFrame f s) := by
    unfold badFrame
    dsimp only
    split <;> simp
  unfold checkFrame
  split
  · simp
  · split
    · simp
    · split
      · exact good
      · exact bad

theorem endFrame_sameTime (k : PortNo) (bytes : List Byte) (s : State) : s.SameTime (endFrame k bytes s) := by
  unfold endFrame
  dsimp only
  split
  · exact checkFrame_sameTime _ (s.setPort k { s.port k with latch := none })
  · exact .rfl

theorem endWindow_sameTime (k : PortNo) (start : Count) (s : State) : s.SameTime (endWindow k start s) := by
  unfold endWindow
  dsimp only
  split <;> simp

theorem carryPortSet_sameTime (slot : List Byte) (s : State) : s.SameTime (carryPortSet slot s) := by
  unfold carryPortSet
  split
  · simp
  · rename_i p _
    have applied : s.SameTime (applyPort p s) := by
      unfold applyPort
      dsimp only
      split
      · simp
      · split <;> simp [enablePort, disablePort]
    simp [applied]

theorem carryPortReadmit_sameTime (slot : List Byte) (s : State) : s.SameTime (carryPortReadmit slot s) := by
  unfold carryPortReadmit
  split
  · simp
  · rename_i k _
    have readmitted : s.SameTime (readmit k s) := by
      unfold readmit
      dsimp only
      split
      · split <;> simp
      · simp
    simp [readmitted]

/-! ### The Classifier -/

theorem setAsideUnmapped_sameTime (f : Frame) (reason : Reason) (s : State) :
    s.SameTime (setAsideUnmapped f reason s) := by
  unfold setAsideUnmapped
  dsimp only
  split <;> simp

theorem setAsideForeign_sameTime (f : Frame) (entry : MapEntry) (reason : Reason) (s : State) :
    s.SameTime (setAsideForeign f entry reason s) := by
  unfold setAsideForeign
  dsimp only
  split <;> simp

@[simp] theorem enterInput_sameTime (f : Classified) (s : State) : s.SameTime (enterInput f s) := by simp [enterInput]

theorem handToTable_sameTime (f : Classified) (s : State) : s.SameTime (handToTable f s) := by
  unfold handToTable
  split <;> simp

theorem classify_sameTime (f : Frame) (s : State) : s.SameTime (classify f s) := by
  unfold classify
  split
  · exact setAsideUnmapped_sameTime ..
  · exact setAsideForeign_sameTime ..
  · exact handToTable_sameTime ..

theorem classifyHead_sameTime (k : PortNo) (s : State) : s.SameTime (classifyHead k s) := by
  unfold classifyHead
  dsimp only
  split
  · exact classify_sameTime _ (s.setPort k _)
  · exact .rfl
  · exact .rfl

@[simp] theorem changeMaps_sameTime (ports : List PortNo) (change : AddressMap → AddressMap) (s : State) :
    s.SameTime (changeMaps ports change s) :=
  foldl_sameTime (f := fun t k => t.setMap k (change (t.map k))) (fun _ _ => .rfl) ports s

theorem carryMapAdd_sameTime (slot : List Byte) (s : State) : s.SameTime (carryMapAdd slot s) := by
  unfold carryMapAdd
  split
  · simp
  · split
    · simp
    · split
      · simp
      · simp

theorem carryMapRemove_sameTime (slot : List Byte) (s : State) : s.SameTime (carryMapRemove slot s) := by
  unfold carryMapRemove
  dsimp only
  split
  · simp
  · split
    · simp
    · simp

theorem carryPatternLoad_sameTime (slot : List Byte) (s : State) : s.SameTime (carryPatternLoad slot s) := by
  unfold carryPatternLoad
  dsimp only
  split <;> simp

theorem carryChannelSet_sameTime (slot : List Byte) (s : State) : s.SameTime (carryChannelSet slot s) := by
  unfold carryChannelSet
  split
  · simp
  · split
    · simp
    · split <;> simp

theorem carryChannelStart_sameTime (slot : List Byte) (s : State) : s.SameTime (carryChannelStart slot s) := by
  unfold carryChannelStart
  split
  · simp
  · dsimp only
    split <;> simp

/-! ### The Arbitration Table -/

theorem takeClassified_sameTime (f : Classified) (s : State) : s.SameTime (takeClassified f s) := by
  unfold takeClassified
  dsimp only
  split
  · simp
  · exact ((State.TableOnly.refl s).arbitrate f).sameTime

theorem takeInput_sameTime (k : PortNo) (s : State) : s.SameTime (takeInput k s) := by
  have refilled (u : State) : u.SameTime (refillInput k u) := by
    unfold refillInput
    split <;> simp
  unfold takeInput
  split
  · exact (takeClassified_sameTime _ (s.setInput k none)).trans (refilled _)
  · exact .rfl

theorem takeExpiry_sameTime (s : State) : s.SameTime (takeExpiry s) := by
  unfold takeExpiry
  split
  · split
    · exact ((State.TableOnly.refl s).removeEntry _ _ _).sameTime
    · exact .rfl
  · exact .rfl

theorem carryChannelStop_sameTime (slot : List Byte) (s : State) : s.SameTime (carryChannelStop slot s) := by
  unfold carryChannelStop
  split
  · simp
  · split
    · simp [((State.TableOnly.refl s).stopChannel _).sameTime]
    · simp

/-! ### The Staging Buffer and the Lane Writers -/

theorem carryPartitionSet_sameTime (slot : List Byte) (s : State) : s.SameTime (carryPartitionSet slot s) := by
  unfold carryPartitionSet
  dsimp only
  split
  · simp
  · split
    · simp
    · simpa using foldl_sameTime (fun u l => by simp [setPartition]) _ s

theorem carryLaneOpen_sameTime (slot : List Byte) (s : State) : s.SameTime (carryLaneOpen slot s) := by
  unfold carryLaneOpen
  split
  · simp
  · dsimp only
    split
    · simp
    · split
      · simp
      · split <;> simp

theorem pageListRead_sameTime (l : LaneNo) (o : Opening) (pages : List Address) (s : State) :
    s.SameTime (pageListRead l o pages s) := by
  unfold pageListRead
  dsimp only
  split <;> simp

@[simp] theorem endClose_sameTime (l : LaneNo) (outcome : ReqOutcome) (n : Nat) (s : State) :
    s.SameTime (endClose l outcome n s) := by
  have closed := ((State.LaneOnly.refl (s := s)).closePage l .flush).announceRest l
  simpa [endClose] using closed.sameTime

@[simp] theorem closeWithLoss_sameTime (l : LaneNo) (s : State) : s.SameTime (closeWithLoss l s) := by
  simp [closeWithLoss]

theorem carryLaneClose_sameTime (slot : List Byte) (s : State) : s.SameTime (carryLaneClose slot s) := by
  unfold carryLaneClose
  split
  · dsimp only
    split
    · simp
    · split <;> simp
    · simp
    · simp
    · simp
  · simp
  · simp

theorem drainEnd_sameTime (l : LaneNo) (s : State) : s.SameTime (drainEnd l s) := by
  have formed : s.LaneOnly (formDropped l s) := State.LaneOnly.refl.formDropped l
  have sought := (formed.seekPage l).sameTime
  have written := (formed.writeNext l).sameTime
  unfold drainEnd
  dsimp only
  split
  · simp
  · split <;> split <;> simp [sought, written]

theorem ownerWordRead_sameTime (l : LaneNo) (r : ReadOp) (word : BitVec 32) (s : State) :
    s.SameTime (ownerWordRead l r word s) := by
  unfold ownerWordRead
  dsimp only
  split
  · exact (State.LaneOnly.refl.takePage l _).sameTime
  · split <;> simp

theorem ownerReadDone_sameTime (l : LaneNo) (r : ReadOp) (word : BitVec 32) (s : State) :
    s.SameTime (ownerReadDone l r word s) := by
  have noted : s.LaneOnly ((s.dropRead r.tag).noteAge r) := (State.LaneOnly.refl.dropRead r.tag).noteAge r
  unfold ownerReadDone
  dsimp only
  split
  · exact noted.sameTime.trans (ownerWordRead_sameTime ..)
  · exact (noted.seekPage l).sameTime

/-! ### The Request Engine and the Bus Interface -/

@[simp] theorem beginScan_sameTime (s : State) : s.SameTime (beginScan s) := by
  unfold beginScan
  split <;> simp [readSlotState]

@[simp] theorem passSlot_sameTime (scan : Scan) (s : State) : s.SameTime (passSlot scan s) := by
  unfold passSlot
  split <;> simp [readSlotState]

theorem slotReadDone_sameTime (r : ReadOp) (bytes : List Byte) (s : State) : s.SameTime (slotReadDone r bytes s) := by
  unfold slotReadDone
  split
  · split
    · unfold slotWholeRead
      split <;> simp [takeSlot]
    · unfold slotStateRead
      split <;> simp
  · simp
  · simp

@[simp] theorem completeRequest_sameTime (slot : List Byte) (a : Answer) (s : State) :
    s.SameTime (completeRequest slot a s) := by simp [completeRequest]

theorem failRead_sameTime (r : ReadOp) (s : State) : s.SameTime (failRead r s) := by
  unfold failRead
  split <;> simp [enterFaulted]

theorem presentArea_sameTime (v : BitVec 64) (s : State) : s.SameTime (presentArea v s) := by
  unfold presentArea
  dsimp only
  split <;> simp [setArea]

theorem writeArea_sameTime (access : AreaWrite) (s : State) : s.SameTime (writeArea access s) := by
  cases access with
  | whole v => exact presentArea_sameTime v s
  | lowerHalf v => exact .rfl
  | upperHalf v => exact presentArea_sameTime _ s

/-! ### The Status Block and the counter snapshot -/

theorem refreshStatus_sameTime (s : State) : s.SameTime (refreshStatus s) := by
  simpa [refreshStatus] using foldl_sameTime (fun u f => by simp) (statusFields s (s.bus.refreshCount + 1)) s

theorem copyCounter_sameTime (c : SnapshotCopy) (name : Counter) (s : State) : s.SameTime (copyCounter c name s) := by
  unfold copyCounter afterCopy
  dsimp only
  split <;> split <;> simp

theorem carrySnapshot_sameTime (slot : List Byte) (s : State) : s.SameTime (carrySnapshot slot s) := by
  unfold carrySnapshot
  dsimp only
  split
  · split
    · simp
    · split <;> simp
  · simp

/-! ### Commands that act only in some states -/

section
variable {s t : State}

theorem execErrorWindowEnd_sameTime {k : PortNo} (e : execErrorWindowEnd k s = .next t) : s.SameTime t := by
  cases e
  split
  · split
    · exact endWindow_sameTime ..
    · exact .rfl
  · exact .rfl

theorem execPageListReadDone_sameTime {tag : Nat} {bytes : List Byte} (e : execPageListReadDone tag bytes s = .next t) :
    s.SameTime t := by
  cases e
  split
  · split
    · split
      · split
        · simp [pageListRead_sameTime]
        · exact .rfl
      · exact .rfl
    · exact .rfl
    · exact .rfl
    · exact .rfl
  · exact .rfl

theorem execOfferRecord_sameTime {position : Nat} (e : execOfferRecord position s = .next t) : s.SameTime t := by
  cases e
  split
  · split
    · rename_i o _ _
      have taken (u : State) : u.SameTime (seekPage o.lane (takeOffer o u)) :=
        ((State.LaneOnly.refl.takeOffer o).seekPage o.lane).sameTime
      exact taken { s with offers := s.offers.eraseIdx position }
    · exact .rfl
  · exact .rfl

theorem execOwnerWordReadDone_sameTime {tag : Nat} {word : BitVec 32}
    (e : execOwnerWordReadDone tag word s = .next t) : s.SameTime t := by
  cases e
  split
  · split
    · split
      · exact .rfl
      · exact ownerReadDone_sameTime ..
    · exact .rfl
    · exact .rfl
    · exact .rfl
  · exact .rfl

theorem execSlotReadDone_sameTime {tag : Nat} {bytes : List Byte} (e : execSlotReadDone tag bytes s = .next t) :
    s.SameTime t := by
  cases e
  split
  · split
    · exact slotReadDone_sameTime ..
    · exact .rfl
  · exact .rfl

theorem execRequestComplete_sameTime (e : execRequestComplete s = .next t) : s.SameTime t := by
  cases e
  split <;> simp

theorem execBadRequest_sameTime (e : execBadRequest s = .next t) : s.SameTime t := by
  cases e
  split
  · split <;> simp
  · exact .rfl

theorem execNudge_sameTime (e : execNudge s = .next t) : s.SameTime t := by
  rw [← Host.Outcome.next.inj e]
  have reread (u : State) (l : LaneNo) : u.SameTime (reread l u) := (State.LaneOnly.refl.reread l).sameTime
  exact (beginScan_sameTime s).trans (foldl_sameTime reread (List.finRange 4) (beginScan s))

theorem execCounterCopy_sameTime (e : execCounterCopy s = .next t) : s.SameTime t := by
  cases e
  split
  · split
    · exact copyCounter_sameTime ..
    · exact .rfl
  · exact .rfl

theorem execReadFailure_sameTime {tag : Nat} (e : execReadFailure tag s = .next t) : s.SameTime t := by
  cases e
  split
  · split
    · exact .rfl
    · exact failRead_sameTime ..
  · exact .rfl

theorem execReadLimitExpiry_sameTime {tag : Nat} (e : execReadLimitExpiry tag s = .next t) : s.SameTime t := by
  cases e
  split
  · split
    · exact failRead_sameTime ..
    · exact .rfl
  · exact .rfl

end

end Sys2Proof.Machine
end

section
/-! SUPPORT. What each command can do to the Timebase and the discipline, said once; from it the ranges and the coherence
that every step keeps, and the course of the DTC within an epoch. -/

namespace Sys2Proof.Machine

/-! ### What a command can do -/

theorem State.carryOut_cases (code : Nat) (act : List Byte → State → State) (s : State) :
    s.carryOut code act = s ∨ ∃ slot, s.carryOut code act = act slot s.begun := by
  unfold State.carryOut
  split
  · split
    · exact .inr ⟨_, rfl⟩
    · exact .inl rfl
  · exact .inl rfl

/-- What a command makes of a state, as far as the Timebase and the discipline go. -/
inductive TimeStep (s : State) : Instr → State → Prop
  | same {t : State} (c : Instr) (h : s.SameTime t) : TimeStep s c t
  | coldReset : TimeStep s .coldReset (coldReset s)
  | functionReset (c : Instr) (h : c = .functionReset ∨ ∃ v, c = .setEnables v) : TimeStep s c (functionReset s)
  | cycleEnd : TimeStep s .oscillatorCycleEnd (cycleEnd s)
  | captureEdge (edge : EdgeKind) (within : CycleFraction) (on : s.discipline.enabled = true) :
      TimeStep s (.ppsEdge edge within) (captureEdge within s)
  | processEdge {e : Edge} (held : s.discipline.latch = some e) : TimeStep s .edgeProcess (processEdge e s)
  | takeCorrection {e : Edge} (m : Measured) (c : Correction) (held : s.discipline.latch = some e) :
      TimeStep s .disciplineCorrection (takeCorrection e m c s)
  | completeAnswered : TimeStep s .edgeComplete (completeAnswered s)
  | enterHoldover (due : s.holdoverDue = true) : TimeStep s .holdoverExpiry (enterHoldover s)
  | setTime (slot : List Byte) : TimeStep s .setTime (carrySetTime slot s.begun)
  | adjustTime (slot : List Byte) : TimeStep s .adjustTime (carryAdjustTime slot s.begun)
  | setFrequency (slot : List Byte) : TimeStep s .setFrequency (carrySetFrequency slot s.begun)
  | disciplineSet (slot : List Byte) : TimeStep s .disciplineSet (carryDisciplineSet slot s.begun)

section
variable {s t : State}

/-- An owner that carries out its request, or has none. -/
theorem TimeStep.carryOut {c : Instr} {code : Nat} {act : List Byte → State → State}
    (h : ∀ slot, TimeStep s c (act slot s.begun)) : TimeStep s c (s.carryOut code act) := by
  rcases s.carryOut_cases code act with e | ⟨slot, e⟩ <;> rw [e]
  · exact .same c .rfl
  · exact h slot

theorem execPpsEdge_timeStep {edge : EdgeKind} {within : CycleFraction} (e : execPpsEdge edge within s = .next t) :
    TimeStep s (.ppsEdge edge within) t := by
  cases e
  split
  · rename_i on
    exact .captureEdge edge within on.1
  · exact .same _ .rfl

theorem execEdgeProcess_timeStep (e : execEdgeProcess s = .next t) : TimeStep s .edgeProcess t := by
  cases e
  split
  · split
    · exact .processEdge ‹_›
    · exact .same _ .rfl
  · exact .same _ .rfl

theorem execDisciplineCorrection_timeStep (e : execDisciplineCorrection s = .next t) :
    TimeStep s .disciplineCorrection t := by
  cases e
  split
  · split
    · exact .takeCorrection _ _ ‹_›
    · exact .same _ .rfl
    · exact .same _ .rfl
  · exact .same _ .rfl

theorem execHoldoverExpiry_timeStep (e : execHoldoverExpiry s = .next t) : TimeStep s .holdoverExpiry t := by
  cases e
  split
  · exact .enterHoldover ‹_›
  · exact .same _ .rfl

/-- A CONTROL write is a function reset when it sets FRESET, and else changes the Bus Interface only. -/
theorem execSetEnables_timeStep {v : BitVec 32} (e : execSetEnables v s = .next t) : TimeStep s (.setEnables v) t := by
  cases e
  split
  · exact .functionReset _ (.inr ⟨v, rfl⟩)
  · exact .same _ .rfl

/-- The inversion of exec for the time: thirteen commands act on it, every other leaves it as it was. -/
theorem exec_timeStep (c : Instr) (e : exec c s = .next t) : TimeStep s c t := by
  cases c with
  | coldReset => cases e; exact .coldReset
  | functionReset => cases e; exact .functionReset _ (.inl rfl)
  | oscillatorCycleEnd => cases e; exact .cycleEnd
  | linkChange port link => cases e; exact .same _ (changeLink_sameTime port link s)
  | frameFirstByte port within => cases e; exact .same _ (latchFrame_sameTime port within s)
  | endOfFrame port bytes => cases e; exact .same _ (endFrame_sameTime port bytes s)
  | errorWindowEnd port => exact .same _ (execErrorWindowEnd_sameTime e)
  | classifyFrame port => cases e; exact .same _ (classifyHead_sameTime port s)
  | tableTakeFrame port => cases e; exact .same _ (takeInput_sameTime port s)
  | expiry => cases e; exact .same _ (takeExpiry_sameTime s)
  | ppsEdge edge within => exact execPpsEdge_timeStep e
  | edgeProcess => exact execEdgeProcess_timeStep e
  | disciplineCorrection => exact execDisciplineCorrection_timeStep e
  | edgeComplete => cases e; exact .completeAnswered
  | holdoverExpiry => exact execHoldoverExpiry_timeStep e
  | setTime => cases e; exact .carryOut .setTime
  | adjustTime => cases e; exact .carryOut .adjustTime
  | setFrequency => cases e; exact .carryOut .setFrequency
  | disciplineSet => cases e; exact .carryOut .disciplineSet
  | portSet => cases e; exact .same _ (State.carryOut_sameTime carryPortSet_sameTime ..)
  | portReadmit => cases e; exact .same _ (State.carryOut_sameTime carryPortReadmit_sameTime ..)
  | mapAdd => cases e; exact .same _ (State.carryOut_sameTime carryMapAdd_sameTime ..)
  | mapRemove => cases e; exact .same _ (State.carryOut_sameTime carryMapRemove_sameTime ..)
  | patternLoad => cases e; exact .same _ (State.carryOut_sameTime carryPatternLoad_sameTime ..)
  | channelSet => cases e; exact .same _ (State.carryOut_sameTime carryChannelSet_sameTime ..)
  | channelStart => cases e; exact .same _ (State.carryOut_sameTime carryChannelStart_sameTime ..)
  | channelStop => cases e; exact .same _ (State.carryOut_sameTime carryChannelStop_sameTime ..)
  | laneOpen => cases e; exact .same _ (State.carryOut_sameTime carryLaneOpen_sameTime ..)
  | pageListReadDone read bytes => exact .same _ (execPageListReadDone_sameTime e)
  | laneClose => cases e; exact .same _ (State.carryOut_sameTime carryLaneClose_sameTime ..)
  | closeDrainEnd lane => cases e; exact .same _ (drainEnd_sameTime lane s).ite
  | partitionSet => cases e; exact .same _ (State.carryOut_sameTime carryPartitionSet_sameTime ..)
  | countersSnapshot => cases e; exact .same _ (State.carryOut_sameTime carrySnapshot_sameTime ..)
  | counterCopy => exact .same _ (execCounterCopy_sameTime e)
  | badRequest => exact .same _ (execBadRequest_sameTime e)
  | scanTimer => cases e; exact .same _ (.ite (beginScan_sameTime { s with bus := { s.bus with scanTaken := true } }))
  | nudge => exact .same _ (execNudge_sameTime e)
  | slotReadDone read bytes => exact .same _ (execSlotReadDone_sameTime e)
  | requestComplete => exact .same _ (execRequestComplete_sameTime e)
  | areaBaseWrite access => cases e; exact .same _ (writeArea_sameTime access s)
  | setEnables value => exact execSetEnables_timeStep e
  | causeRead => cases e; exact .same _ .rfl
  | ignoredRegisterWrite offset value => cases e; exact .same _ .rfl
  | statusRefresh =>
    cases e; exact .same _ (.ite (refreshStatus_sameTime { s with bus := { s.bus with refreshTaken := true } }))
  | readFailure read => exact .same _ (execReadFailure_sameTime e)
  | readLimitExpiry read => exact .same _ (execReadLimitExpiry_sameTime e)
  | offerRecord position => exact .same _ (execOfferRecord_sameTime e)
  | ownerWordReadDone read word => exact .same _ (execOwnerWordReadDone_sameTime e)
  | starvedReread lane => cases e; exact .same _ (State.LaneOnly.refl.reread lane).sameTime.ite
  | writeRecord lane => cases e; exact .same _ (State.LaneOnly.refl.writeNext lane).sameTime.ite
  | lingerExpiry lane => cases e; exact .same _ (State.LaneOnly.refl.lingerEnd lane).sameTime.ite
  | holdoffExpiry lane => cases e; exact .same _ (State.LaneOnly.refl.holdoffEnd lane).sameTime.ite

end

/-! ### What the operations of the Timebase and the discipline change -/

@[simp] theorem stepTo_timebase (cause : StepCause) (total offset : Int) (s : State) :
    (stepTo cause total offset s).timebase
      = { s.timebase.setTotal total with epoch := s.timebase.epoch + 1, slew := 0 } := rfl
@[simp] theorem stepTo_discipline (cause : StepCause) (total offset : Int) (s : State) :
    (stepTo cause total offset s).discipline = s.discipline := rfl

@[simp] theorem State.offerTime_timebase (s : State) (r : TimeRecord) : (s.offerTime r).timebase = s.timebase := by
  simp [State.offerTime]
@[simp] theorem State.offerTime_discipline (s : State) (r : TimeRecord) : (s.offerTime r).discipline = s.discipline := by
  simp [State.offerTime]

@[simp] theorem captureEdge_timebase (within : CycleFraction) (s : State) :
    (captureEdge within s).timebase = s.timebase := by
  unfold captureEdge
  split <;> simp

/-- An accepted edge qualifies the unit and is admitted; an irregular one changes nothing of it. -/
theorem captureEdge_discipline (within : CycleFraction) (s : State) :
    (captureEdge within s).discipline = s.discipline
      ∨ ∃ e, (captureEdge within s).discipline = (s.discipline.qualified s.count).admitEdge e := by
  unfold captureEdge
  split
  · exact .inr ⟨_, by simp only [State.causeOnChange_discipline, State.bump_discipline]; rfl⟩
  · exact .inl rfl

@[simp] theorem processEdge_timebase (e : Edge) (s : State) : (processEdge e s).timebase = s.timebase := by
  unfold processEdge
  dsimp only
  split <;> rfl

theorem processEdge_discipline (e : Edge) (s : State) :
    ∃ e', (processEdge e s).discipline = { s.discipline with lastError := e.measure.error, latch := some e' } := by
  unfold processEdge
  dsimp only
  split <;> exact ⟨_, rfl⟩

@[simp] theorem applyCorrection_discipline (c : Correction) (s : State) :
    (applyCorrection c s).discipline = s.discipline := by
  cases c <;> rfl

/-- A correction that the Timebase takes is applied; one set aside leaves the Timebase as it was. -/
theorem takeCorrection_timebase (e : Edge) (m : Measured) (c : Correction) (s : State) :
    (takeCorrection e m c s).timebase = (applyCorrection c s).timebase
      ∨ (takeCorrection e m c s).timebase = s.timebase := by
  unfold takeCorrection
  split
  · exact .inl rfl
  · exact .inr rfl

theorem takeCorrection_discipline (e : Edge) (m : Measured) (c : Correction) (s : State) :
    ∃ e', (takeCorrection e m c s).discipline = { s.discipline with latch := some e' } := by
  unfold takeCorrection State.answerEdge
  split
  · simp
  · exact ⟨_, rfl⟩

@[simp] theorem completeAnswered_timebase (s : State) : (completeAnswered s).timebase = s.timebase := by
  unfold completeAnswered
  split
  · split <;> simp [completeEdge]
  · rfl

theorem completeEdge_discipline (e : Edge) (m : Measured) (c : Correction) (applied : Bool) (freq slew : Int)
    (s : State) : (completeEdge e m c applied freq slew s).discipline
      = (s.discipline.settle e.settings.lockThreshold m c applied).freeLatch := by
  simp [completeEdge]

/-- An answered edge settles the count and state and leaves the latch; without one nothing happens. -/
theorem completeAnswered_discipline (s : State) :
    (completeAnswered s).discipline = s.discipline
      ∨ s.discipline.latch ≠ none ∧ ∃ threshold m c applied,
          (completeAnswered s).discipline = (s.discipline.settle threshold m c applied).freeLatch := by
  unfold completeAnswered
  split
  · rename_i held
    split
    · exact .inr ⟨by simp [held], _, _, _, _, completeEdge_discipline ..⟩
    · exact .inl rfl
    · exact .inl rfl
  · exact .inl rfl

@[simp] theorem enterHoldover_timebase (s : State) : (enterHoldover s).timebase = s.timebase := by simp [enterHoldover]
@[simp] theorem enterHoldover_discipline (s : State) :
    (enterHoldover s).discipline = { s.discipline with state := .holdover, good := 0, timer := false } := by
  simp [enterHoldover]

/-- The unit that a DISCIPLINE_SET turns off (R53). -/
def Discipline.turnedOff (d : Discipline) (p : DisciplineParams) : Discipline :=
  { d.setAtOnce p with
    active := p.given.clamped, pending := none, timer := false, latch := none, waiting := [], good := 0, state := .free }

theorem disableDiscipline_discipline (p : DisciplineParams) (s : State) :
    (disableDiscipline p s).discipline = (completeAnswered s).discipline.turnedOff p := by
  unfold disableDiscipline
  dsimp only
  split <;> simp [Discipline.turnedOff]

theorem disableDiscipline_timebase (p : DisciplineParams) (s : State) :
    (disableDiscipline p s).timebase = { s.timebase with slewRate := p.given.clamped.slewRate } := by
  unfold disableDiscipline
  dsimp only
  split <;> simp [State.handSlewRate]

/-- DISCIPLINE_SET touches S at most. -/
theorem applyDiscipline_timebase (p : DisciplineParams) (s : State) :
    (applyDiscipline p s).timebase = s.timebase
      ∨ (applyDiscipline p s).timebase = { s.timebase with slewRate := p.given.clamped.slewRate } := by
  unfold applyDiscipline
  split
  · exact .inl rfl
  · split
    · exact .inr (disableDiscipline_timebase p s)
    · exact .inr rfl

/-! ### The ranges of the Timebase -/

/-- The subsecond, F, R and the S that governs lie in their ranges (R22, R25). -/
structure Timebase.InRange (b : Timebase) : Prop where
  sub : b.sub < Config.oneSecond
  freq : b.freq.natAbs ≤ Config.freqLimit
  slew : b.slew.natAbs ≤ Config.halfSecond
  rate : 1 ≤ b.slewRate ∧ b.slewRate ≤ 500

theorem clampFreq_inRange (f : Int) : (clampFreq f).natAbs ≤ Config.freqLimit := by
  simp only [clampFreq, clampInt, Config.freqLimit]
  omega

theorem clampSlew_inRange (r : Int) : (clampSlew r).natAbs ≤ Config.halfSecond := by
  simp only [clampSlew, clampInt, Config.halfSecond]
  omega

section
variable {b : Timebase} (h : b.InRange)
include h

theorem Timebase.InRange.withFreq {f : Int} (hf : f.natAbs ≤ Config.freqLimit) : { b with freq := f }.InRange :=
  { h with freq := hf }

theorem Timebase.InRange.withSlew {r : Int} (hr : r.natAbs ≤ Config.halfSecond) : { b with slew := r }.InRange :=
  { h with slew := hr }

theorem Timebase.InRange.withSlewRate {rate : Nat} (hr : 1 ≤ rate ∧ rate ≤ 500) :
    { b with slewRate := rate }.InRange :=
  { h with rate := hr }

/-- A step keeps the ranges, wherever it goes: the subsecond is a remainder, and R is cleared. -/
theorem Timebase.InRange.stepped (total : Int) (epoch : BitVec 16) :
    { b.setTotal total with epoch := epoch, slew := 0 }.InRange := by
  have remainder : (total % Config.oneSecond).toNat < Config.oneSecond := by
    have := Int.emod_nonneg total (b := Config.oneSecond) (by decide)
    have := Int.emod_lt_of_pos total (b := Config.oneSecond) (by decide)
    omega
  exact { sub := remainder, freq := h.freq, slew := Nat.zero_le _, rate := h.rate }

end

theorem Timebase.InRange.applyCorrection {s : State} (h : s.timebase.InRange) (c : Correction) :
    (applyCorrection c s).timebase.InRange := by
  cases c with
  | step offset => exact h.stepped _ _
  | slew deltaF newSlew =>
    exact (h.withFreq (s.servoFreq_inRange deltaF h.freq)).withSlew (clampSlew_inRange newSlew)
  | held deltaF => exact h.withFreq (s.servoFreq_inRange deltaF h.freq)

theorem Timebase.InRange.carryAdjustTime {s : State} (h : s.timebase.InRange) (slot : List Byte) :
    (carryAdjustTime slot s).timebase.InRange := by
  unfold Machine.carryAdjustTime
  dsimp only
  split
  · exact h
  · split
    · exact h.stepped _ _
    · exact h.withSlew (clampSlew_inRange _)

/-! ### The coherence of the discipline -/

/-- The settings lie in their ranges, and the state machine is coherent (R40, R41, R46, R50, R53). -/
structure Discipline.Sound (d : Discipline) : Prop where
  active : d.active.InRange
  pending : ∀ a ∈ d.pending, a.InRange
  coherent : d.Coherent

/-- Clamping brings the three tunable settings into their ranges; the two others are checked or fit (R50). -/
theorem Adoption.clamped_inRange {a : Adoption} (delay : a.ppsDelay ≤ 65535) (threshold : a.stepThreshold ≤ 999999999) :
    a.clamped.InRange := by
  simp only [Adoption.InRange, Adoption.clamped, clampNat]
  omega

theorem disciplineParams_clamped_inRange {slot : List Byte} {p : DisciplineParams} (h : disciplineParams slot = some p) :
    p.given.clamped.InRange := by
  have delay := slotField_two_lt slot 14
  simp only [disciplineParams, bind, Option.bind_eq_some_iff] at h
  obtain ⟨_, _, _, _, _, _, _, _, _, _, h⟩ := h
  split at h
  · cases h
    exact Adoption.clamped_inRange (Nat.le_of_lt_succ delay) ‹_›
  · cases h

section
variable {d : Discipline} (h : d.Sound)
include h

/-- An edge in flight shows that the unit is enabled. -/
theorem Discipline.Sound.enabled_of_latch (held : d.latch ≠ none) : d.enabled = true := by
  obtain ⟨_, _, _, _, _, _, off, _⟩ := h
  by_contra disabled
  exact held (off (by simpa using disabled)).2.1

/-- A running holdover timer shows it, too. -/
theorem Discipline.Sound.enabled_of_timer (runs : d.timer = true) : d.enabled = true := by
  obtain ⟨_, _, _, _, timer, _, off, _⟩ := h
  by_contra disabled
  have free := (off (by simpa using disabled)).1
  simpa [free] using timer.mp runs

/-- An edge accepted by an enabled unit: FREE and HOLDOVER become ACQUIRING, and the timer starts (R40, R41, R52). -/
theorem Discipline.Sound.qualified (on : d.enabled = true) (n : Count) : (d.qualified n).Sound := by
  obtain ⟨active, pending, good, locked, _, _, _, empty⟩ := h
  have adopted : (d.pending.getD d.active).InRange := by
    cases waiting : d.pending with
    | none => exact active
    | some a => exact pending a waiting
  refine ⟨adopted, by simp [Discipline.qualified], ?_⟩
  unfold Discipline.Coherent Discipline.qualified
  cases state : d.state <;> simp_all

theorem Discipline.Sound.admitEdge (on : d.enabled = true) (e : Edge) : (d.admitEdge e).Sound := by
  obtain ⟨active, pending, good, locked, timer, last, _, _⟩ := h
  unfold Discipline.admitEdge
  split
  · exact ⟨active, pending, good, locked, timer, last, by simp [on], by simp⟩
  · rename_i held
    exact ⟨active, pending, good, locked, timer, last, by simp [on], by simp [held]⟩

/-- The edge in the latch goes on to its next stage. -/
theorem Discipline.Sound.withLatch (held : d.latch ≠ none) (error : Int) (e : Edge) :
    { d with lastError := error, latch := some e }.Sound := by
  have on := h.enabled_of_latch held
  obtain ⟨active, pending, good, locked, timer, last, _, _⟩ := h
  exact ⟨active, pending, good, locked, timer, last, by simp [on], by simp⟩

/-- The count goes to 0, and LOCKED falls to ACQUIRING (R32, R43, R46). -/
theorem Discipline.Sound.unlocked : { d with good := 0, state := d.state.unlocked }.Sound := by
  obtain ⟨active, pending, _, _, timer, last, off, empty⟩ := h
  refine ⟨active, pending, by simp, ?_, ?_, last, fun disabled => ?_, empty⟩
  · cases state : d.state <;> simp [Quality.unlocked]
  · cases state : d.state <;> simpa [Quality.unlocked, state] using timer
  · obtain ⟨free, clear⟩ := off disabled
    exact ⟨by simp [free, Quality.unlocked], clear⟩

/-- A passed lock test: LOCKED comes with the count of 4, from ACQUIRING (R46). -/
theorem Discipline.Sound.lockTest (held : d.latch ≠ none) (error : Int) (threshold : Nat) :
    (d.lockTest error threshold).Sound := by
  unfold Discipline.lockTest
  split
  · have on := h.enabled_of_latch held
    obtain ⟨active, pending, good, locked, timer, last, _, empty⟩ := h
    refine ⟨active, pending, Nat.min_le_right .., ?_, ?_, last, by simp [on], empty⟩
    · dsimp only
      split
      · omega
      · intro still
        have := locked still
        omega
    · dsimp only
      split
      · simp [*]
      · exact timer
  · exact h.unlocked

theorem Discipline.Sound.settle (held : d.latch ≠ none) (threshold : Nat) (m : Measured) (c : Correction)
    (applied : Bool) : (d.settle threshold m c applied).Sound := by
  unfold Discipline.settle
  split
  · exact h
  · split
    · exact h.unlocked
    · exact h.lockTest held m.error threshold

/-- The next waiting edge takes the latch, and with none waiting none is left behind. -/
theorem Discipline.Sound.freeLatch (on : d.enabled = true) : d.freeLatch.Sound := by
  obtain ⟨active, pending, good, locked, timer, last, _, _⟩ := h
  refine ⟨active, pending, good, locked, timer, last, by simp [Discipline.freeLatch, on], fun none => ?_⟩
  have empty : d.waiting = [] := List.head?_eq_none_iff.mp none
  simp [Discipline.freeLatch, empty]

theorem Discipline.Sound.holdover (runs : d.timer = true) :
    { d with state := .holdover, good := 0, timer := false }.Sound := by
  have on := h.enabled_of_timer runs
  obtain ⟨active, pending, _, _, _, _, _, empty⟩ := h
  exact ⟨active, pending, by simp, by simp, by simp, by simp, by simp [on], empty⟩

/-- A function reset drops what the Timebase has not taken, and the edges that wait (R56). -/
theorem Discipline.Sound.functionReset : d.functionReset.Sound := by
  obtain ⟨active, pending, good, locked, timer, last, off, _⟩ := h
  refine ⟨active, pending, good, locked, timer, last, fun disabled => ?_, fun _ => rfl⟩
  obtain ⟨free, clear, _⟩ := off disabled
  exact ⟨free, by simp [Discipline.functionReset, clear, keepAnswered], rfl⟩

end

/-- A unit that goes off is FREE with nothing in flight, whatever it was (R53). -/
theorem Discipline.turnedOff_sound (d : Discipline) {p : DisciplineParams} (given : p.given.clamped.InRange) :
    (d.turnedOff p).Sound :=
  ⟨given, by simp [Discipline.turnedOff], by simp [Discipline.turnedOff, Discipline.Coherent]⟩

theorem Discipline.settle_enabled (d : Discipline) (threshold : Nat) (m : Measured) (c : Correction) (applied : Bool) :
    (d.settle threshold m c applied).enabled = d.enabled := by
  unfold Discipline.settle Discipline.lockTest
  split
  · rfl
  · split
    · rfl
    · split <;> rfl

theorem Discipline.Sound.completeAnswered {s : State} (h : s.discipline.Sound) :
    (completeAnswered s).discipline.Sound := by
  rcases completeAnswered_discipline s with e | ⟨held, threshold, m, c, applied, e⟩ <;> rw [e]
  · exact h
  · have settled := h.settle held threshold m c applied
    exact settled.freeLatch (by rw [Discipline.settle_enabled]; exact h.enabled_of_latch held)

theorem Discipline.Sound.applyDiscipline {s : State} (h : s.discipline.Sound) {p : DisciplineParams}
    (given : p.given.clamped.InRange) : (applyDiscipline p s).discipline.Sound := by
  unfold Machine.applyDiscipline
  split
  · rename_i on
    obtain ⟨active, _, good, locked, timer, last, _, empty⟩ := h
    exact ⟨active, by simpa using given, good, locked, timer, last, by simp [Discipline.setAtOnce, on], empty⟩
  · split
    · rw [disableDiscipline_discipline]
      exact Discipline.turnedOff_sound _ given
    · rename_i _ was
      obtain ⟨_, _, good, locked, timer, last, off, empty⟩ := h
      exact ⟨given, by simp, good, locked, timer, last, fun _ => off (by simpa using was), empty⟩

/-! ### Every command keeps the time in range -/

/-- The Timebase in its ranges, with a sound discipline. -/
structure State.TimeSound (s : State) : Prop where
  timebase : s.timebase.InRange
  discipline : s.discipline.Sound

theorem State.timeSound_iff {s : State} : s.TimeSound ↔ s.TimebaseInRange ∧ s.discipline.Coherent := by
  constructor
  · rintro ⟨⟨sub, freq, slew, rate⟩, ⟨active, pending, coherent⟩⟩
    exact ⟨⟨sub, freq, slew, active, pending, rate⟩, coherent⟩
  · rintro ⟨⟨sub, freq, slew, active, pending, rate⟩, coherent⟩
    exact ⟨⟨sub, freq, slew, rate⟩, ⟨active, pending, coherent⟩⟩

theorem State.timeSound_coldReset (s : State) : (coldReset s).TimeSound :=
  State.timeSound_iff.mpr (by decide : State.reset.TimebaseInRange ∧ State.reset.discipline.Coherent)

section
variable {s t : State} (h : s.TimeSound)
include h

theorem State.TimeSound.same (g : s.SameTime t) : t.TimeSound := by
  obtain ⟨timebase, discipline⟩ := g
  constructor
  · rw [timebase]; exact h.timebase
  · rw [discipline]; exact h.discipline

/-- The cycle's bias goes towards 0, and the S that then governs is an adopted one. -/
theorem State.TimeSound.cycleEnd : (cycleEnd s).TimeSound := by
  have range := (State.timeSound_iff.mp h).1
  obtain ⟨⟨_, freq, slew, _⟩, discipline⟩ := h
  obtain ⟨_, _, least, most, _⟩ := discipline.active
  have shrinks : (Machine.cycleEnd s).timebase.slew.natAbs ≤ Config.halfSecond :=
    (cycleEnd_slew_natAbs s).trans_le ((Nat.sub_le ..).trans slew)
  exact ⟨⟨range.cycleEnd_sub, freq, shrinks, least, most⟩, discipline⟩

theorem State.TimeSound.captureEdge (on : s.discipline.enabled = true) (within : CycleFraction) :
    (captureEdge within s).TimeSound := by
  constructor
  · rw [captureEdge_timebase]; exact h.timebase
  · rcases captureEdge_discipline within s with e | ⟨edge, e⟩ <;> rw [e]
    · exact h.discipline
    · exact (h.discipline.qualified on s.count).admitEdge on edge

theorem State.TimeSound.processEdge {e : Edge} (held : s.discipline.latch = some e) : (processEdge e s).TimeSound := by
  obtain ⟨e', next⟩ := processEdge_discipline e s
  constructor
  · rw [processEdge_timebase]; exact h.timebase
  · rw [next]; exact h.discipline.withLatch (by simp [held]) _ e'

theorem State.TimeSound.takeCorrection {e : Edge} (held : s.discipline.latch = some e) (m : Measured) (c : Correction) :
    (takeCorrection e m c s).TimeSound := by
  obtain ⟨e', next⟩ := takeCorrection_discipline e m c s
  constructor
  · rcases takeCorrection_timebase e m c s with e | e <;> rw [e]
    · exact h.timebase.applyCorrection c
    · exact h.timebase
  · rw [next]; exact h.discipline.withLatch (by simp [held]) s.discipline.lastError e'

theorem State.TimeSound.completeAnswered : (completeAnswered s).TimeSound := by
  constructor
  · rw [completeAnswered_timebase]; exact h.timebase
  · exact h.discipline.completeAnswered

theorem State.TimeSound.enterHoldover (due : s.holdoverDue = true) : (enterHoldover s).TimeSound := by
  have runs : s.discipline.timer = true := by
    unfold State.holdoverDue at due
    split at due
    · simp only [Bool.and_eq_true] at due
      exact due.1.1
    · cases due
  constructor
  · rw [enterHoldover_timebase]; exact h.timebase
  · rw [enterHoldover_discipline]; exact h.discipline.holdover runs

theorem State.TimeSound.carrySetTime (slot : List Byte) : (carrySetTime slot s).TimeSound := by
  unfold Machine.carrySetTime
  dsimp only
  split
  · exact h.same .rfl
  · exact ⟨h.timebase.stepped _ _, h.discipline.unlocked⟩

theorem State.TimeSound.carryAdjustTime (slot : List Byte) : (carryAdjustTime slot s).TimeSound := by
  refine ⟨h.timebase.carryAdjustTime slot, ?_⟩
  unfold Machine.carryAdjustTime
  dsimp only
  split
  · exact h.discipline
  · split <;> exact h.discipline

theorem State.TimeSound.carryDisciplineSet (slot : List Byte) : (carryDisciplineSet slot s).TimeSound := by
  unfold Machine.carryDisciplineSet
  split
  · exact h.same .rfl
  · rename_i p valid
    have given := disciplineParams_clamped_inRange valid
    have applied : (applyDiscipline p s).TimeSound := by
      constructor
      · obtain ⟨_, _, least, most, _⟩ := given
        rcases applyDiscipline_timebase p s with e | e <;> rw [e]
        · exact h.timebase
        · exact h.timebase.withSlewRate ⟨least, most⟩
      · exact h.discipline.applyDiscipline given
    exact applied.same .rfl

theorem State.TimeSound.timeStep {c : Instr} (step : TimeStep s c t) : t.TimeSound := by
  have begun : s.begun.TimeSound := h.same .rfl
  cases step with
  | same _ g => exact h.same g
  | coldReset => exact s.timeSound_coldReset
  | functionReset => exact ⟨h.timebase, h.discipline.functionReset⟩
  | cycleEnd => exact h.cycleEnd
  | captureEdge edge within on => exact h.captureEdge on within
  | processEdge held => exact h.processEdge held
  | takeCorrection m c held => exact h.takeCorrection held m c
  | completeAnswered => exact h.completeAnswered
  | enterHoldover due => exact h.enterHoldover due
  | setTime slot => exact begun.carrySetTime slot
  | adjustTime slot => exact begun.carryAdjustTime slot
  | setFrequency slot => exact ⟨h.timebase.withFreq (clampFreq_inRange _), h.discipline⟩
  | disciplineSet slot => exact begun.carryDisciplineSet slot

end

/-- Settles O52: every command keeps the Timebase in its ranges and the discipline sound, and an idle step changes
nothing. -/
theorem stepKeepsTimeInRange : Obligations.StepKeepsTimeInRange := by
  intro s t range coherent e
  have sound : s.TimeSound := State.timeSound_iff.mpr ⟨range, coherent⟩
  apply State.timeSound_iff.mp
  rcases step_next_cases e with rfl | ⟨c, rest, _, he⟩
  · exact sound
  · have taken : State.TimeSound { s with pending := rest } := ⟨sound.timebase, sound.discipline⟩
    exact taken.timeStep (exec_timeStep c he)

/-! ### The DTC within an epoch -/

/-- The DTC and its epoch as they were. -/
abbrev State.SameClock (s t : State) : Prop :=
  t.timebase.total = s.timebase.total ∧ t.timebase.epoch = s.timebase.epoch

/-- A step of the DTC begins the next epoch (R28). -/
abbrev State.NextEpoch (s t : State) : Prop := t.timebase.epoch = s.timebase.epoch + 1

/-- The three commands that can step the DTC (R28). -/
abbrev StepsTheClock (c : Instr) : Prop := c = .setTime ∨ c = .adjustTime ∨ c = .disciplineCorrection

section
variable (s : State)

theorem State.sameClock_of_timebase {t : State} (h : t.timebase = s.timebase) : s.SameClock t := by
  rw [State.SameClock, h]
  exact ⟨rfl, rfl⟩

theorem takeCorrection_clock (e : Edge) (m : Measured) (c : Correction) :
    s.SameClock (takeCorrection e m c s) ∨ s.NextEpoch (takeCorrection e m c s) := by
  rcases takeCorrection_timebase e m c s with same | same
  · cases c with
    | step offset => exact .inr (by rw [State.NextEpoch, same]; rfl)
    | slew deltaF newSlew | held deltaF => exact .inl (by rw [State.SameClock, same]; exact ⟨rfl, rfl⟩)
  · exact .inl (s.sameClock_of_timebase same)

theorem carrySetTime_clock (slot : List Byte) :
    s.SameClock (carrySetTime slot s) ∨ s.NextEpoch (carrySetTime slot s) := by
  unfold carrySetTime
  dsimp only
  split
  · exact .inl ⟨rfl, rfl⟩
  · exact .inr rfl

theorem carryAdjustTime_clock (slot : List Byte) :
    s.SameClock (carryAdjustTime slot s) ∨ s.NextEpoch (carryAdjustTime slot s) := by
  unfold carryAdjustTime
  dsimp only
  split
  · exact .inl ⟨rfl, rfl⟩
  · split
    · exact .inr rfl
    · exact .inl ⟨rfl, rfl⟩

theorem carryDisciplineSet_clock (slot : List Byte) : s.SameClock (carryDisciplineSet slot s) := by
  unfold carryDisciplineSet
  split
  · exact ⟨rfl, rfl⟩
  · rename_i p _
    have applied : s.SameClock (applyDiscipline p s) := by
      rcases applyDiscipline_timebase p s with e | e <;> rw [State.SameClock, e] <;> exact ⟨rfl, rfl⟩
    exact applied

end

/-- What a command does to the DTC: a cold reset, one cycle's increment, nothing, or a step. -/
theorem TimeStep.clock {s t : State} {c : Instr} (h : TimeStep s c t) :
    c = .coldReset ∨ c = .oscillatorCycleEnd ∧ t = Machine.cycleEnd s ∨ s.SameClock t
      ∨ StepsTheClock c ∧ s.NextEpoch t := by
  cases h with
  | coldReset => exact .inl rfl
  | cycleEnd => exact .inr (.inl ⟨rfl, rfl⟩)
  | same _ g => exact .inr (.inr (.inl (s.sameClock_of_timebase g.1)))
  | functionReset => exact .inr (.inr (.inl ⟨rfl, rfl⟩))
  | captureEdge edge within on => exact .inr (.inr (.inl (s.sameClock_of_timebase (captureEdge_timebase within s))))
  | processEdge held => exact .inr (.inr (.inl (s.sameClock_of_timebase (processEdge_timebase _ s))))
  | completeAnswered => exact .inr (.inr (.inl (s.sameClock_of_timebase (completeAnswered_timebase s))))
  | enterHoldover due => exact .inr (.inr (.inl (s.sameClock_of_timebase (enterHoldover_timebase s))))
  | setFrequency slot => exact .inr (.inr (.inl ⟨rfl, rfl⟩))
  | disciplineSet slot => exact .inr (.inr (.inl (carryDisciplineSet_clock s.begun slot)))
  | takeCorrection m c held =>
    exact .inr (.inr ((takeCorrection_clock s _ m c).imp_right fun next => ⟨.inr (.inr rfl), next⟩))
  | setTime slot => exact .inr (.inr ((carrySetTime_clock s.begun slot).imp_right fun next => ⟨.inl rfl, next⟩))
  | adjustTime slot =>
    exact .inr (.inr ((carryAdjustTime_clock s.begun slot).imp_right fun next => ⟨.inr (.inl rfl), next⟩))

/-- Settles O58: of the four things a command can do to the DTC, only a step and a cold reset leave the epoch. -/
theorem timeNeverRunsBackWithinAnEpoch : Obligations.TimeNeverRunsBackWithinAnEpoch := by
  intro c s t range _ e
  rcases (exec_timeStep c e).clock with cold | ⟨rfl, rfl⟩ | ⟨total, epoch⟩ | ⟨steps, next⟩
  · subst cold
    exact ⟨fun h => absurd rfl h, fun h => absurd rfl h, by simp⟩
  · have positive : 0 < s.increment := by
      have := range.increment_inRange
      omega
    exact ⟨fun _ _ => .inr ⟨positive, range.cycleEnd_total⟩, fun _ _ _ _ => rfl, fun _ => .inl rfl⟩
  · exact ⟨fun _ _ => .inl total, fun _ _ _ _ => epoch, fun _ => .inl epoch⟩
  · refine ⟨fun _ same => ?_, fun _ set adjust correct => ?_, fun _ => .inr next⟩
    · have : s.timebase.epoch + 1 = s.timebase.epoch := next.symm.trans same
      bv_omega
    · rcases steps with rfl | rfl | rfl
      · exact absurd rfl set
      · exact absurd rfl adjust
      · exact absurd rfl correct

end Sys2Proof.Machine
end

section
/-! SUPPORT. The requests of the Timebase, by value: SET_TIME, ADJUST_TIME and SET_FREQUENCY. -/

namespace Sys2Proof.Machine

/-! ### A step, by value -/

/-- A DTC given as a natural number of sub-units: its seconds modulo 2^32, and its subsecond. -/
theorem Timebase.setTotal_natCast (b : Timebase) (total : Nat) :
    b.setTotal total =
      { b with sec := BitVec.ofNat 32 (total / Config.oneSecond), sub := total % Config.oneSecond } := by
  rw [setTotal, ← Int.natCast_ediv, ← Int.natCast_emod, Int.toNat_natCast, Int.toNat_natCast]

/-- A DTC given in seconds and nanoseconds (R32). -/
theorem Timebase.setTotal_seconds (b : Timebase) (sec : Nat) {ns : Nat} (h : ns ≤ 999999999) :
    b.setTotal (sec * Config.oneSecond + ns * Config.oneNanosecond) =
      { b with sec := BitVec.ofNat 32 sec, sub := ns * 4294967296 } := by
  have seconds : (sec * Config.oneSecond + ns * Config.oneNanosecond) / Config.oneSecond = sec := by
    simp only [Config.oneSecond, Config.oneNanosecond]
    omega
  have rest : (sec * Config.oneSecond + ns * Config.oneNanosecond) % Config.oneSecond = ns * 4294967296 := by
    simp only [Config.oneSecond, Config.oneNanosecond]
    omega
  have total := b.setTotal_natCast (sec * Config.oneSecond + ns * Config.oneNanosecond)
  rw [seconds, rest] at total
  exact_mod_cast total

/-! ### Results -/

/-- The result of a SET_TIME that is refused, and of one that is carried out (R32, log 11). -/
theorem resultOf_epoch_last (epoch : Nat) : resultOf [(56, leBytes 2 epoch)] = zeros 8 ++ leBytes 2 epoch ++ zeros 6 := by
  rw [resultOf_eq _ (by simp [Ordered])]
  simp [filled]
theorem resultOf_setTime (sec ns epoch : Nat) :
    resultOf [(48, leBytes 4 sec), (52, leBytes 4 ns), (56, leBytes 2 epoch)] =
      leBytes 4 sec ++ leBytes 4 ns ++ leBytes 2 epoch ++ zeros 6 := by
  rw [resultOf_eq _ (by simp [Ordered])]
  simp [filled]

/-- The results of an ADJUST_TIME: refused, in STEP mode and in SLEW mode (R33, R34, log 11). -/
theorem resultOf_epoch_first (epoch : Nat) : resultOf [(48, leBytes 2 epoch)] = leBytes 2 epoch ++ zeros 14 := by
  rw [resultOf_eq _ (by simp [Ordered])]
  simp [filled]
theorem resultOf_adjustStep (epoch sec ns : Nat) :
    resultOf [(48, leBytes 2 epoch), (52, leBytes 4 sec), (56, leBytes 4 ns)] =
      leBytes 2 epoch ++ zeros 2 ++ leBytes 4 sec ++ leBytes 4 ns ++ zeros 4 := by
  rw [resultOf_eq _ (by simp [Ordered])]
  simp [filled]
theorem resultOf_adjustSlew (epoch : Nat) (r : Int) :
    resultOf [(48, leBytes 2 epoch), (60, leInt 4 r)] = leBytes 2 epoch ++ zeros 10 ++ leInt 4 r := by
  rw [resultOf_eq _ (by simp [Ordered])]
  simp [filled]

/-- The result of a SET_FREQUENCY (R35). -/
theorem resultOf_setFrequency (f : Int) (epoch : Nat) :
    resultOf [(48, leInt 4 f), (52, leBytes 2 epoch)] = leInt 4 f ++ leBytes 2 epoch ++ zeros 10 := by
  rw [resultOf_eq _ (by simp [Ordered])]
  simp [filled]

/-! ### The requests carried out -/

section
variable {s : State} {slot : List Byte}

theorem execSetTime_refused (h : s.Holds 0x01 slot) (high : 999999999 < slotField slot 12 4) :
    exec .setTime s = .next (s.returns .badParam (zeros 8 ++ leBytes 2 s.timebase.epoch.toNat ++ zeros 6)) := by
  refine congrArg Host.Outcome.next ((h.carryOut carrySetTime).trans ?_)
  rw [carrySetTime, if_pos high, s.begun_answerWith _ _ h.busy, epochField, resultOf_epoch_last]

/-- The step and the answer of a SET_TIME that has been handed over. -/
theorem setStep_begun (b : s.engine.state = .busy) (total offset : Int) :
    let after (u : State) := stepTo .set total offset { u with discipline := u.discipline.afterSetStep }
    (after s.begun).answerWith .ok
        [(48, leBytes 4 s.timebase.sec.toNat), (52, leBytes 4 (s.timebase.sub / Config.oneNanosecond)),
         epochField 56 (after s.begun)] =
      (after s).returns .ok
        (leBytes 4 s.timebase.sec.toNat ++ leBytes 4 (s.timebase.sub / Config.oneNanosecond)
          ++ leBytes 2 (s.timebase.epoch + 1).toNat ++ zeros 6) := by
  intro after
  rw [← resultOf_setTime]
  exact (after s).begun_answerWith _ _ b

/-- An accepted SET_TIME: the step, and the result with the old time and the new epoch (R32). -/
theorem execSetTime_taken (h : s.Holds 0x01 slot) (fits : ¬ 999999999 < slotField slot 12 4) :
    let total : Int := slotField slot 8 4 * Config.oneSecond + slotField slot 12 4 * Config.oneNanosecond
    let t := stepTo .set total (roundDiv (total - s.timebase.total) Config.oneNanosecond)
      { s with discipline := s.discipline.afterSetStep }
    exec .setTime s = .next (t.returns .ok
      (leBytes 4 s.timebase.sec.toNat ++ leBytes 4 (s.timebase.sub / Config.oneNanosecond)
        ++ leBytes 2 (s.timebase.epoch + 1).toNat ++ zeros 6)) := by
  intro total t
  refine congrArg Host.Outcome.next ((h.carryOut carrySetTime).trans ?_)
  rw [carrySetTime, if_neg fits]
  exact setStep_begun h.1 total _

theorem execAdjustTime_refused (h : s.Holds 0x02 slot)
    (r : 999999999 < (signedOf 4 (slotField slot 8 4)).natAbs ∨ 1 < slotField slot 12 1) :
    exec .adjustTime s = .next (s.returns .badParam (leBytes 2 s.timebase.epoch.toNat ++ zeros 14)) := by
  refine congrArg Host.Outcome.next ((h.carryOut carryAdjustTime).trans ?_)
  rw [carryAdjustTime, if_pos r, s.begun_answerWith _ _ h.busy, epochField, resultOf_epoch_first]

/-- An accepted ADJUST_TIME is carried out by its mode (R33, R34). -/
theorem execAdjustTime_taken (h : s.Holds 0x02 slot)
    (r : ¬(999999999 < (signedOf 4 (slotField slot 8 4)).natAbs ∨ 1 < slotField slot 12 1)) :
    exec .adjustTime s = .next (
      if slotField slot 12 1 = 0 then adjustStep (signedOf 4 (slotField slot 8 4)) s.begun
      else adjustSlew (signedOf 4 (slotField slot 8 4)) s.begun) := by
  refine congrArg Host.Outcome.next ((h.carryOut carryAdjustTime).trans ?_)
  rw [carryAdjustTime, if_neg r]

theorem adjustStep_begun (b : s.engine.state = .busy) (offset : Int) :
    let t := stepBy .adjust (offset * Config.oneNanosecond) offset s
    adjustStep offset s.begun = t.returns .ok
      (leBytes 2 (s.timebase.epoch + 1).toNat ++ zeros 2 ++ leBytes 4 t.timebase.sec.toNat
        ++ leBytes 4 (t.timebase.sub / Config.oneNanosecond) ++ zeros 4) := by
  intro t
  rw [← resultOf_adjustStep]
  exact t.begun_answerWith _ _ b

theorem adjustSlew_begun (b : s.engine.state = .busy) (offset : Int) :
    let sum := s.timebase.slew + offset * Config.oneNanosecond
    let t : State := { s with timebase := { s.timebase with slew := clampSlew sum } }
    adjustSlew offset s.begun = t.returns (if clampSlew sum = sum then .ok else .adjusted)
      (leBytes 2 s.timebase.epoch.toNat ++ zeros 10 ++ leInt 4 (slewNs (clampSlew sum))) := by
  intro sum t
  rw [← resultOf_adjustSlew]
  exact t.begun_answerWith _ _ b

theorem execSetFrequency_taken (h : s.Holds 0x03 slot) :
    let given := signedOf 4 (slotField slot 8 4)
    let t : State := { s with timebase := { s.timebase with freq := clampFreq given } }
    exec .setFrequency s = .next (t.returns (if clampFreq given = given then .ok else .adjusted)
      (leInt 4 (clampFreq given) ++ leBytes 2 s.timebase.epoch.toNat ++ zeros 10)) := by
  intro given t
  refine congrArg Host.Outcome.next ((h.carryOut carrySetFrequency).trans ?_)
  rw [← resultOf_setFrequency]
  exact t.begun_answerWith _ _ h.busy

end

/-- Settles O25: a step by value, and SET_TIME as the step to the time given. -/
theorem setTimeStepsAndReports : Obligations.SetTimeStepsAndReports := by
  refine ⟨fun cause total offset s => ?step, fun slot s held => ⟨execSetTime_refused held, fun fits => ⟨?time, ?exec⟩⟩⟩
  case step =>
    refine ⟨?_, fun _ _ => rfl⟩
    rw [stepTo, Timebase.setTotal_natCast]
    cases cause <;> rfl
  case time =>
    rw [stepTo_timebase, Timebase.setTotal_seconds _ _ fits]
  case exec =>
    exact execSetTime_taken held (Nat.not_lt.mpr fits)

/-- Settles O26: each request by its ranges, each result by value. -/
theorem adjustTimeAndSetFrequency : Obligations.AdjustTimeAndSetFrequency := by
  refine ⟨fun slot s held => ⟨execAdjustTime_refused held, fun valid mode => ?step, fun valid mode => ?slew⟩,
    fun slot s held => execSetFrequency_taken held⟩
  case step =>
    have step_mode : slotField slot 12 1 = 0 := mode
    rw [execAdjustTime_taken held valid, if_pos step_mode]
    exact congrArg _ (adjustStep_begun held.1 _)
  case slew =>
    have not_step : slotField slot 12 1 ≠ 0 := fun zero => absurd (mode.symm.trans zero) (by decide)
    rw [execAdjustTime_taken held valid, if_neg not_step]
    exact congrArg _ (adjustSlew_begun held.1 _)

end Sys2Proof.Machine
end

section
/-! SUPPORT. The state after a cold reset meets every invariant. -/

namespace Sys2Proof.Machine

theorem State.poolBounded_reset : State.reset.PoolBounded := by
  refine ⟨Nat.zero_le _, fun ch => ?_⟩
  have empty : State.reset.channelEntries ch = [] := rfl
  simp [State.ChannelBounded, empty, Channel.reset, ChannelSettings.reset, Config.poolSize]

theorem State.entriesApart_reset : State.reset.EntriesApart := by
  refine ⟨fun ch => ?_, fun k => by simp⟩
  have empty : State.reset.channelEntries ch = [] := rfl
  have sound : Channel.reset.settings.Sound := by decide
  refine ⟨?_, ?_, fun _ => empty, ?_⟩ <;> rw [State.reset_channel]
  · exact sound
  · simp [Channel.reset]
  · simp [Channel.reset]

theorem State.stagingBounded_reset : State.reset.StagingBounded := by
  refine ⟨by decide, by decide, fun l => ?_⟩
  have pool : State.reset.poolBlocks = 2048 := by decide
  rw [State.reset_stage, State.reset_lane, pool]
  decide

/-- Settles O51, invariant by invariant. -/
theorem resetMeetsEveryInvariant : Obligations.ResetMeetsEveryInvariant := by
  have ports : State.reset.PortsCoherent := fun k => by
    rw [show State.reset.port k = Port.reset .down by simp [State.reset, State.port]]
    exact Port.reset_coherent _
  have maps (k : PortNo) : (State.reset.map k).KeysOnce := AddressMap.keysOnce_of_empty fun i => by simp
  exact ⟨by decide, by decide, ports, maps, State.poolBounded_reset, State.stagingBounded_reset,
    State.entriesApart_reset, .nil, by decide⟩

end Sys2Proof.Machine
end

section
/-! SUPPORT. The edges of the reference discipline, by value: the cold reset, qualification and holdover, the correction
of an edge, and its end. -/

namespace Sys2Proof.Machine

/-! ### The cold reset -/

/-- Settles O3: every field is that of the reset state. -/
theorem coldResetSetsDiscipline : Obligations.ColdResetSetsDiscipline := fun s =>
  ⟨coldReset s, rfl, rfl, rfl, rfl, rfl, rfl, rfl, rfl, rfl, rfl, rfl, rfl, rfl,
    fun c => Counters.reset_get (.discipline c), rfl, rfl, rfl, rfl⟩

/-! ### Qualification of an edge -/

/-- The latch keeps an edge that it already holds; the one admitted then waits (R39, log 20). -/
theorem Discipline.admitEdge_eq (d : Discipline) (e : Edge) :
    d.admitEdge e =
      { d with latch := some (d.latch.getD e), waiting := if d.latch = none then d.waiting else d.waiting ++ [e] } := by
  unfold Discipline.admitEdge
  split <;> simp [*]

section
variable {edge : EdgeKind} {within : CycleFraction} {s : State}

theorem execPpsEdge_inactive (h : s.discipline.enabled = false ∨ edge ≠ s.discipline.polarity) :
    execPpsEdge edge within s = .next s := by
  refine congrArg Host.Outcome.next (if_neg ?_)
  rintro ⟨on, active⟩
  rcases h with off | other
  · exact absurd (on.symm.trans off) (by decide)
  · exact other active

theorem execPpsEdge_active (on : s.discipline.enabled = true) (active : edge = s.discipline.polarity) :
    execPpsEdge edge within s = .next (captureEdge within s) := congrArg Host.Outcome.next (if_pos ⟨on, active⟩)

theorem captureEdge_irregular (h : s.discipline.accepts s.count = false) :
    captureEdge within s = s.bump (.discipline .irregular) := if_neg (by simp [h])

/-- An accepted edge: the first of a run moves the state to ACQUIRING and sets CAUSE TIME (R40, R46, log 17). -/
theorem captureEdge_accepted (h : s.discipline.accepts s.count = true) :
    let begins := s.discipline.state = .free ∨ s.discipline.state = .holdover
    let d := s.discipline.qualified s.count
    let e : Edge := { capture := s.captureNow within, settings := d.active, stage := .captured }
    let counted := ({ s with discipline := d.admitEdge e } : State).bump (.discipline .accepted)
    captureEdge within s = if begins then counted.setCause .time else counted := by
  intro begins d e counted
  have state : counted.discipline.state = if begins then .acquiring else s.discipline.state := by
    simp only [counted, State.bump_discipline, Discipline.admitEdge_eq]
    rfl
  have changed : counted.discipline.state = s.discipline.state ↔ ¬begins := by
    rw [state]
    split
    · rename_i first
      rcases first with first | first <;> simp [begins, first]
    · simp [*]
  refine (if_pos h).trans ?_
  change (if counted.discipline.state = s.discipline.state then counted else counted.setCause .time) = _
  simp only [changed, ite_not]

end

/-! ### Holdover -/

section
variable {s : State}

/-- The holdover timer, with a last accepted edge (R41). -/
theorem State.holdoverDue_iff {last : Count} (h : s.discipline.lastAccepted = some last) :
    s.holdoverDue = true ↔ s.discipline.timer = true
      ∧ (s.discipline.state = .acquiring ∨ s.discipline.state = .locked)
      ∧ reached s.count (last + 800000000) = true := by
  have limit : BitVec.ofNat 64 Config.holdoverLimit = 800000000 := rfl
  simp only [State.holdoverDue, h, limit, Bool.and_eq_true, Bool.or_eq_true, decide_eq_true_eq, and_assoc]

/-- Without one it does not expire (log 2). -/
theorem State.holdoverDue_none (h : s.discipline.lastAccepted = none) : s.holdoverDue = false := by
  simp only [State.holdoverDue, h]

theorem execHoldoverExpiry_due (h : s.holdoverDue = true) : execHoldoverExpiry s = .next (enterHoldover s) :=
  congrArg Host.Outcome.next (if_pos h)

theorem execHoldoverExpiry_not_due (h : ¬s.holdoverDue = true) : execHoldoverExpiry s = .next s :=
  congrArg Host.Outcome.next (if_neg h)

end

/-- Settles O22: an edge by whether it is active and accepted, and the holdover timer by whether it is due. -/
theorem edgesAreTimedAndMissed : Obligations.EdgesAreTimedAndMissed := by
  refine ⟨fun edge within s wf => ⟨execPpsEdge_inactive, fun on active second outside => ?irregular,
    fun on active accepted => ?accepted⟩,
    fun last s held => ⟨fun early => ?early, fun due => ?due⟩, fun s unset => ?never⟩
  case irregular =>
    have rejected : s.discipline.accepts s.count = false :=
      Bool.eq_false_iff.mpr fun accepts => ((s.discipline.accepts_iff s.count).mp accepts).elim second outside
    exact (execPpsEdge_active on active).trans (congrArg Host.Outcome.next (captureEdge_irregular rejected))
  case accepted =>
    have bounds := CycleFraction.phase_bounds within (by simpa [CycleFraction.wf] using wf)
    refine ⟨CycleFraction.phase within, bounds.1, bounds.2, (execPpsEdge_active on active).trans ?_⟩
    rw [captureEdge_accepted ((s.discipline.accepts_iff s.count).mpr accepted), Discipline.admitEdge_eq]
    rfl
  case early => exact execHoldoverExpiry_not_due fun due => early ((State.holdoverDue_iff held).mp due)
  case due => exact execHoldoverExpiry_due ((State.holdoverDue_iff held).mpr due)
  case never => exact execHoldoverExpiry_not_due (by simp [State.holdoverDue_none unset])

/-! ### Rounding -/

/-- A half is rounded away from zero (00 Rounding). -/
theorem roundDiv_half_away (num : Int) {den : Nat} (h : 0 < den)
    (half : 2 * (roundDiv num den * den - num).natAbs = den) : num.natAbs < (roundDiv num den * den).natAbs := by
  have up {n : Int} (h' : 0 ≤ n) (half : 2 * ((2 * n + den) / (2 * den) * den - n).natAbs = den) :
      n < (2 * n + den) / (2 * den) * den := by
    have upper := Int.lt_ediv_add_one_mul_self (2 * n + den) (show (0 : Int) < 2 * den by omega)
    rw [add_mul, mul_left_comm] at upper
    omega
  unfold roundDiv at half ⊢
  split at half
  · rename_i nonneg
    rw [if_pos nonneg]
    have := up nonneg half
    omega
  · rename_i negative
    rw [neg_mul] at half
    rw [if_neg negative, neg_mul]
    have := up (n := -num) (by omega) (by omega)
    omega

/-! ### The correction of an edge -/

/-- An error beyond the step threshold, unless that is 0 (R43). -/
abbrev Adoption.steps (a : Adoption) (error : Int) : Prop :=
  a.stepThreshold ≠ 0 ∧ a.stepThreshold * 32 < error.natAbs

/-- An edge ahead with backward slew off (R44). -/
abbrev Adoption.holds (a : Adoption) (error : Int) : Prop := a.backwardSlew = false ∧ 0 < error

section
variable {a : Adoption} {error : Int}

theorem correctionFor_step (h : a.steps error) : correctionFor a error = .step (-error) := if_pos h

theorem correctionFor_held (h : ¬a.steps error) (held : a.holds error) :
    correctionFor a error = .held (-roundDiv (error * a.gain) 512) := (if_neg h).trans (if_pos held)

theorem correctionFor_slew (h : ¬a.steps error) (free : ¬a.holds error) :
    correctionFor a error = .slew (-roundDiv (error * a.gain) 512) (-error * 134217728) :=
  (if_neg h).trans (if_neg free)

end

section
variable {s : State} {e : Edge}

/-- The edge measured, with a correction handed to the Timebase (R42). -/
def State.handEdge (s : State) (e : Edge) (c : Correction) : State :=
  { s with discipline :=
    { s.discipline with lastError := e.measure.error, latch := some { e with stage := .handed e.measure c } } }

/-- The edge in the latch is measured and handed over, and a held correction counts (R42, R44, log 18). -/
theorem processEdge_eq {c : Correction} (h : correctionFor e.settings e.measure.error = c) :
    processEdge e s = if c.isHeld then (s.handEdge e c).bump (.discipline .held) else s.handEdge e c := by
  subst h
  rfl

theorem execEdgeProcess_idle (h : ∀ e ∈ s.discipline.latch, e.stage ≠ .captured) : execEdgeProcess s = .next s := by
  unfold execEdgeProcess
  split
  · rw [if_neg (h _ ‹_›)]
  · rfl

theorem execEdgeProcess_captured (latch : s.discipline.latch = some e) (h : e.stage = .captured) :
    execEdgeProcess s = .next (processEdge e s) := by
  simp only [execEdgeProcess, latch, h, if_true]

theorem execDisciplineCorrection_idle (h : ∀ e ∈ s.discipline.latch, ∀ m c, e.stage ≠ .handed m c) :
    execDisciplineCorrection s = .next s := by
  unfold execDisciplineCorrection
  split
  · split
    · exact absurd ‹_› (h _ ‹_› _ _)
    · rfl
    · rfl
  · rfl

theorem execDisciplineCorrection_handed {m : Measured} {c : Correction} (latch : s.discipline.latch = some e)
    (h : e.stage = .handed m c) : execDisciplineCorrection s = .next (takeCorrection e m c s) := by
  simp only [execDisciplineCorrection, latch, h]

/-- A correction is applied in the epoch of its edge's capture, and set aside in any other (R30, R45). -/
theorem takeCorrection_same_epoch (m : Measured) (c : Correction) (h : s.timebase.epoch = e.capture.snap.epoch) :
    takeCorrection e m c s = (applyCorrection c s).answerEdge e m c true := if_pos h

theorem takeCorrection_other_epoch (m : Measured) (c : Correction) (h : s.timebase.epoch ≠ e.capture.snap.epoch) :
    takeCorrection e m c s = (s.bump (.discipline .setAside)).answerEdge e m c false := if_neg h

end

/-- Settles O23: the three corrections of an error, and what the Timebase does with each of them. -/
theorem edgeErrorIsCorrectedOrSetAside : Obligations.EdgeErrorIsCorrectedOrSetAside := by
  refine ⟨fun s => ⟨execEdgeProcess_idle, fun e latch captured => ?measured⟩,
    fun s => ⟨execDisciplineCorrection_idle, fun e m c latch handed => ?taken⟩,
    fun num den pos => ⟨roundDiv_nearest num pos, roundDiv_half_away num pos⟩, fun r => rfl⟩
  case measured =>
    have processed {c : Correction} (h : correctionFor e.settings e.measure.error = c) :
        exec .edgeProcess s =
          .next (if c.isHeld then (s.handEdge e c).bump (.discipline .held) else s.handEdge e c) :=
      (execEdgeProcess_captured latch captured).trans (congrArg Host.Outcome.next (processEdge_eq h))
    exact ⟨fun steps => processed (correctionFor_step steps),
      fun near holds => processed (correctionFor_held near holds),
      fun near free => processed (correctionFor_slew near free)⟩
  case taken =>
    have corrected := execDisciplineCorrection_handed latch handed
    refine ⟨fun other => ?_, fun same => ?_⟩
    · exact corrected.trans (congrArg Host.Outcome.next (takeCorrection_other_epoch m c other))
    · have applied := corrected.trans (congrArg Host.Outcome.next (takeCorrection_same_epoch m c same))
      refine ⟨fun offset step => ?_, fun change slew both => ?_, fun change held => ?_⟩
      · subst step; exact applied
      · subst both; exact applied
      · subst held; exact applied

/-! ### The end of an edge -/

/-- The corrections that are steps. -/
theorem Correction.isStep_iff (c : Correction) : c.isStep = true ↔ ∃ offset : Int, c = .step offset := by
  cases c <;> simp [Correction.isStep]

section
variable (d : Discipline) {threshold : Nat} {m : Measured} {c : Correction}

/-- A set-aside edge leaves the count and the state (R45). -/
theorem Discipline.settle_setAside : d.settle threshold m c false = d := rfl

theorem Discipline.settle_step (h : c.isStep = true) :
    d.settle threshold m c true = { d with good := 0, state := d.state.unlocked } := if_pos h

theorem Discipline.settle_beyond (h : c.isStep = false) (far : ¬m.error.natAbs ≤ threshold * 32) :
    d.settle threshold m c true = { d with good := 0, state := d.state.unlocked } :=
  (if_neg (Bool.eq_false_iff.mp h)).trans (if_neg far)

theorem Discipline.settle_within (h : c.isStep = false) (near : m.error.natAbs ≤ threshold * 32) :
    d.settle threshold m c true =
      { d with good := min (d.good + 1) 4
               state := if d.state = .acquiring ∧ min (d.good + 1) 4 = 4 then .locked else d.state } :=
  (if_neg (Bool.eq_false_iff.mp h)).trans (if_pos near)

end

section
variable {s : State}

theorem completeAnswered_idle (h : ∀ e ∈ s.discipline.latch, ∀ m c a f r, e.stage ≠ .answered m c a f r) :
    completeAnswered s = s := by
  unfold completeAnswered
  split
  · split
    · exact absurd ‹_› (h _ ‹_› _ _ _ _ _)
    · rfl
    · rfl
  · rfl

theorem completeAnswered_answered {e : Edge} {m : Measured} {c : Correction} {a : Bool} {f r : Int}
    (latch : s.discipline.latch = some e) (h : e.stage = .answered m c a f r) :
    completeAnswered s = completeEdge e m c a f r s := by
  simp only [completeAnswered, latch, h]

/-- The end of an edge by the count and state that it settles (R46, R47). -/
theorem completeEdge_of_settled (e : Edge) {m : Measured} {c : Correction} {applied : Bool} (f r : Int) {good : Nat}
    {state : Quality} {stepped : Bool} (step : (applied && c.isStep) = stepped)
    (h : s.discipline.settle e.settings.lockThreshold m c applied = { s.discipline with good := good, state := state }) :
    let d := s.discipline
    let record : TimeRecord :=
      { event := .edge, state := state, stepped := stepped, held := c.isHeld, setAside := !applied
        error := m.error, freq := f, slewNs := slewNs r, time := m.time }
    let free : State :=
      { s with discipline :=
        { d with good := good, state := state, latch := d.waiting.head?, waiting := d.waiting.tail } }
    let offered := free.offerOrDiscard d.lane .discipline (.time record)
    completeEdge e m c applied f r s = if state = d.state then offered else offered.setCause .time := by
  intro d record free offered
  subst step
  have kept : offered.discipline.state = state := by simp [offered, free]
  unfold completeEdge
  rw [h]
  change (if offered.discipline.state = s.discipline.state then offered else offered.setCause .time) = _
  rw [kept]

end

/-- Settles O24: the end of an edge is that of the count and state which its lock test settles. -/
theorem edgeEndsWithLockTestAndRecord : Obligations.EdgeEndsWithLockTestAndRecord := by
  intro s
  refine ⟨fun idle => congrArg Host.Outcome.next (completeAnswered_idle idle),
    fun e m c applied f r latch answered => ?_⟩
  have ended {good : Nat} {state : Quality} {stepped : Bool} (step : (applied && c.isStep) = stepped)
      (h : s.discipline.settle e.settings.lockThreshold m c applied =
        { s.discipline with good := good, state := state }) :=
    congrArg (Host.Outcome.next (φ := Fault) (ρ := Refusal))
      ((completeAnswered_answered latch answered).trans (completeEdge_of_settled e f r step h))
  have slewed (h : ¬∃ offset : Int, c = .step offset) : c.isStep = false :=
    Bool.eq_false_iff.mpr (mt c.isStep_iff.mp h)
  refine ⟨fun setAside => ?_, fun taken step => ?_, fun taken other far => ?_, fun taken other near => ?_⟩
  · subst setAside
    exact ended rfl s.discipline.settle_setAside
  · subst taken
    have step := c.isStep_iff.mpr step
    exact ended step (s.discipline.settle_step step)
  · subst taken
    exact ended (slewed other) (s.discipline.settle_beyond (slewed other) far)
  · subst taken
    exact ended (slewed other) (s.discipline.settle_within (slewed other) near)

end Sys2Proof.Machine
end

section
/-! SUPPORT. DISCIPLINE_SET, by value: its ranges, the change that it makes, and its result. -/

namespace Sys2Proof.Machine

/-! ### The parameters of DISCIPLINE_SET -/

/-- A structural parameter of DISCIPLINE_SET is out of its range (R50, R172). -/
def disciplineRefused (slot : List Byte) : Prop :=
  1 < slotField slot 8 1 ∨ 1 < slotField slot 9 1 ∨ 1 < slotField slot 10 1 ∨ 1 < slotField slot 11 1
    ∨ (3 < slotField slot 12 1 ∧ slotField slot 12 1 ≠ 0xFF) ∨ 999999999 < slotField slot 16 4

theorem disciplineParams_of_refused {slot : List Byte} (h : disciplineRefused slot) : disciplineParams slot = none := by
  by_contra taken
  obtain ⟨p, hp⟩ := Option.ne_none_iff_exists'.mp taken
  simp only [disciplineParams, Option.bind_eq_bind, Option.bind_eq_some_iff] at hp
  obtain ⟨_, enable, _, polarity, _, backward, _, lamp, _, lane, hp⟩ := hp
  have enable := le_of_twoValued enable
  have polarity := le_of_twoValued polarity
  have backward := le_of_twoValued backward
  have lamp := le_of_twoValued lamp
  have lane := valid_of_laneOrNone? lane
  have threshold : slotField slot 16 4 ≤ 999999999 := by
    by_contra high
    rw [if_neg high] at hp
    cases hp
  unfold disciplineRefused at h
  omega

/-- The six adoption settings that a slot asks for, as given (R50, R172). -/
def slotAdoption (slot : List Byte) : Adoption :=
  { ppsDelay := slotField slot 14 2, stepThreshold := slotField slot 16 4, slewRate := slotField slot 20 2
    backwardSlew := decide (slotField slot 10 1 = 1), gain := slotField slot 13 1, lockThreshold := slotField slot 24 4 }

/-- The parameters that a slot in range holds (R50, R172). -/
def slotDisciplineParams (slot : List Byte) : DisciplineParams :=
  { enabled := decide (slotField slot 8 1 = 1), polarity := if slotField slot 9 1 = 0 then .rising else .falling
    lampPolarity := if slotField slot 11 1 = 0 then .activeHigh else .activeLow
    lane := if h : slotField slot 12 1 < 4 then some ⟨slotField slot 12 1, h⟩ else none
    given := slotAdoption slot }

theorem disciplineParams_of_valid {slot : List Byte} (h : ¬disciplineRefused slot) :
    disciplineParams slot = some (slotDisciplineParams slot) := by
  simp only [disciplineRefused, not_or] at h
  obtain ⟨enable, polarity, backward, lamp, lane, threshold⟩ := h
  simp only [disciplineParams, switch?_of_le (Nat.le_of_not_lt enable), twoValued_of_le _ _ (Nat.le_of_not_lt polarity),
    switch?_of_le (Nat.le_of_not_lt backward), twoValued_of_le _ _ (Nat.le_of_not_lt lamp), laneOrNone?_of_valid lane,
    if_pos (Nat.le_of_not_lt threshold), Option.bind_eq_bind, Option.bind_some, slotDisciplineParams, slotAdoption]

/-! ### The change, while the owner holds the request -/

section
variable (s : State)

theorem State.offerTime_begun (r : TimeRecord) : s.begun.offerTime r = (s.offerTime r).begun := by
  unfold State.offerTime
  cases lane : s.discipline.lane <;> rfl

theorem State.causeOnChange_begun (q : Quality) : s.begun.causeOnChange q = (s.causeOnChange q).begun := by
  unfold State.causeOnChange
  split <;> rfl

theorem completeEdge_begun (e : Edge) (m : Measured) (c : Correction) (applied : Bool) (f r : Int) :
    completeEdge e m c applied f r s.begun = (completeEdge e m c applied f r s).begun := by
  unfold completeEdge
  rw [← State.causeOnChange_begun, ← State.offerTime_begun]

theorem completeAnswered_begun : completeAnswered s.begun = (completeAnswered s).begun := by
  cases latch : s.discipline.latch with
  | none => simp only [completeAnswered, latch]
  | some e =>
    cases stage : e.stage with
    | captured | handed m c => simp only [completeAnswered, latch, stage]
    | answered m c a f r => simp only [completeAnswered, latch, stage, completeEdge_begun]

@[simp] theorem completeAnswered_engine : (completeAnswered s).engine = s.engine := by
  unfold completeAnswered
  split
  · split <;> simp [completeEdge, State.offerTime]
  · rfl

theorem completeAnswered_enabled : (completeAnswered s).discipline.enabled = s.discipline.enabled := by
  rcases completeAnswered_discipline s with e | ⟨_, threshold, m, c, applied, e⟩ <;> rw [e]
  exact Discipline.settle_enabled ..

variable (p : DisciplineParams)

/-- The state in which a DISCIPLINE_SET has turned the unit off, before the record of it (R52, R53). -/
def State.turnedOff : State :=
  { s with
    timebase := { s.timebase with slewRate := p.given.clamped.slewRate }
    discipline := s.discipline.turnedOff p }

theorem disableDiscipline_eq :
    let t := completeAnswered s
    let off := t.turnedOff p
    disableDiscipline p s =
      if t.discipline.state = .free then off else (off.offerTime (off.eventTime .disabled)).setCause .time := rfl

theorem disableDiscipline_begun : disableDiscipline p s.begun = (disableDiscipline p s).begun := by
  rw [disableDiscipline_eq, disableDiscipline_eq, completeAnswered_begun]
  dsimp only
  split
  · rfl
  · exact congrArg (State.setCause · .time) (((completeAnswered s).turnedOff p).offerTime_begun _)

/-- The state with no edge in flight. -/
def State.withoutEdges : State := { s with discipline := { s.discipline with latch := none, waiting := [] } }

/-- Completing an answered edge first is what a disable does anyway (R45, log 19). -/
theorem disableDiscipline_completed :
    disableDiscipline p (completeAnswered s).withoutEdges = disableDiscipline p s := rfl

theorem disableDiscipline_engine : (disableDiscipline p s).engine = s.engine := by
  rw [disableDiscipline_eq]
  split <;> simp [State.turnedOff, State.offerTime]

variable {p}

theorem applyDiscipline_on (on : p.enabled = true) :
    applyDiscipline p s = { s with discipline := { s.discipline.setAtOnce p with pending := some p.given.clamped } } :=
  if_pos on

theorem applyDiscipline_off (off : p.enabled = false) (was : s.discipline.enabled = true) :
    applyDiscipline p s = disableDiscipline p s := by
  simp only [applyDiscipline, off, was, Bool.false_eq_true, if_false, if_true]

theorem applyDiscipline_still_off (off : p.enabled = false) (was : s.discipline.enabled = false) :
    applyDiscipline p s =
      { s with
        timebase := { s.timebase with slewRate := p.given.clamped.slewRate }
        discipline := { s.discipline.setAtOnce p with active := p.given.clamped, pending := none } } := by
  simp only [applyDiscipline, off, was, Bool.false_eq_true, if_false]
  rfl

variable (p)

theorem applyDiscipline_begun : applyDiscipline p s.begun = (applyDiscipline p s).begun := by
  cases now : p.enabled <;> cases was : s.discipline.enabled
  case false.true =>
    rw [applyDiscipline_off s now was, applyDiscipline_off s.begun now was, disableDiscipline_begun]
  case false.false => rw [applyDiscipline_still_off s now was, applyDiscipline_still_off s.begun now was]
  all_goals rw [applyDiscipline_on s now, applyDiscipline_on s.begun now]

theorem applyDiscipline_engine : (applyDiscipline p s).engine = s.engine := by
  cases now : p.enabled <;> cases was : s.discipline.enabled
  case false.true => rw [applyDiscipline_off s now was, disableDiscipline_engine]
  case false.false => rw [applyDiscipline_still_off s now was]
  all_goals rw [applyDiscipline_on s now]

end

/-! ### The request carried out -/

/-- The result of a DISCIPLINE_SET that is carried out, as 16 bytes (R172). -/
def disciplineResult (a : Adoption) (d : Discipline) (enable : Nat) : List Byte :=
  leBytes 2 a.ppsDelay ++ leBytes 2 a.slewRate ++ leBytes 4 a.stepThreshold ++ leBytes 4 a.lockThreshold
    ++ leBytes 1 a.gain ++ leBytes 1 d.state.code ++ leBytes 1 d.good ++ leBytes 1 enable

theorem resultOf_disciplineSet (a : Adoption) (d : Discipline) (enable : Nat) :
    resultOf [(48, leBytes 2 a.ppsDelay), (50, leBytes 2 a.slewRate), (52, leBytes 4 a.stepThreshold),
       (56, leBytes 4 a.lockThreshold), (60, leBytes 1 a.gain), (61, leBytes 1 d.state.code),
       (62, leBytes 1 d.good), (63, leBytes 1 enable)] = disciplineResult a d enable := by
  rw [resultOf_eq _ (by simp [Ordered])]
  simp [filled, disciplineResult]

theorem boolCode_decide_eq_one {n : Nat} (h : n ≤ 1) : boolCode (decide (n = 1)) = n := by
  by_cases one : n = 1
  · simp [boolCode, one]
  · simp [boolCode, show n = 0 by omega]

section
variable {s : State} {slot : List Byte}

theorem execDisciplineSet_refused (h : s.Holds 0x04 slot) (r : disciplineRefused slot) :
    exec .disciplineSet s = .next (s.returns .badParam (zeros 16)) := by
  refine congrArg Host.Outcome.next ((h.carryOut carryDisciplineSet).trans ?_)
  unfold carryDisciplineSet
  rw [disciplineParams_of_refused r]
  exact s.begun_answerWith .badParam [] h.busy

/-- An accepted DISCIPLINE_SET: the change, and the settings as applied with the state and count after it (R50). -/
theorem execDisciplineSet_taken (h : s.Holds 0x04 slot) (valid : ¬disciplineRefused slot) :
    let p := slotDisciplineParams slot
    let a := p.given.clamped
    let t := applyDiscipline p s
    exec .disciplineSet s =
      .next (t.returns (if a = p.given then .ok else .adjusted)
        (disciplineResult a t.discipline (slotField slot 8 1))) := by
  intro p a t
  have busy : t.engine.state = .busy := by rw [applyDiscipline_engine]; exact h.1
  have enable : boolCode p.enabled = slotField slot 8 1 :=
    boolCode_decide_eq_one (Nat.le_of_not_lt fun high => valid (.inl high))
  refine congrArg Host.Outcome.next ((h.carryOut carryDisciplineSet).trans ?_)
  unfold carryDisciplineSet
  rw [disciplineParams_of_valid valid]
  dsimp only
  rw [applyDiscipline_begun, State.begun_answerWith _ _ _ busy, ← resultOf_disciplineSet, ← enable]

/-- A disable of a unit whose answered edge has been completed is the same request (log 19). -/
theorem execDisciplineSet_completed (h : s.Holds 0x04 slot) (valid : ¬disciplineRefused slot)
    (off : (slotDisciplineParams slot).enabled = false) (was : s.discipline.enabled = true) :
    exec .disciplineSet s = exec .disciplineSet (completeAnswered s).withoutEdges := by
  have holds : (completeAnswered s).withoutEdges.Holds 0x04 slot := by
    rw [State.Holds, show (completeAnswered s).withoutEdges.engine = s.engine from completeAnswered_engine s]
    exact h
  have enabled : (completeAnswered s).withoutEdges.discipline.enabled = true := (completeAnswered_enabled s).trans was
  rw [execDisciplineSet_taken h valid, execDisciplineSet_taken holds valid, applyDiscipline_off _ off was,
    applyDiscipline_off _ off enabled, disableDiscipline_completed]

end

/-- Settles O27: the ranges of DISCIPLINE_SET, and its three changes of the enable. -/
theorem disciplineSetTakesItsSettings : Obligations.DisciplineSetTakesItsSettings := by
  intro slot s held
  refine ⟨execDisciplineSet_refused held, fun valid => ?_⟩
  have taken := execDisciplineSet_taken held valid
  have asked {n : Nat} (h : leNat (fieldAt slot 8 1) = n) : (slotDisciplineParams slot).enabled = decide (n = 1) :=
    congrArg (fun n => decide (n = 1)) h
  refine ⟨fun on => ?on, fun off was => ?stillOff, fun off was _ t completed => ?answered,
    fun off was untaken => ⟨fun free => ?free, fun running => ?running⟩⟩
  case on =>
    rw [taken, applyDiscipline_on s (asked on)]
    rfl
  case stillOff =>
    rw [taken, applyDiscipline_still_off s (asked off) was]
    rfl
  case answered =>
    obtain rfl : completeAnswered s = t := Host.Outcome.next.inj completed
    exact execDisciplineSet_completed held valid (asked off) was
  case free =>
    have completed := completeAnswered_idle untaken
    rw [taken, applyDiscipline_off s (asked off) was, disableDiscipline_eq, completed, if_pos free]
    rfl
  case running =>
    have completed := completeAnswered_idle untaken
    rw [taken, applyDiscipline_off s (asked off) was, disableDiscipline_eq, completed, if_neg running]
    rfl

end Sys2Proof.Machine
end

section
/-! SUPPORT. The Composition Unit, by value: the one rounding of a composed time, its carry into the seconds and its
clamp, and the lead. -/

namespace Sys2Proof.Machine

/-! ### The terms of a composition -/

/-- The units of an exact time in thirty-seconds of a nanosecond, a half up (R61). -/
def thirtySeconds (units : Int) : Int := (units + 67108864) / 134217728

/-- The subsecond of a composition in thirty-seconds, with its carry into the seconds (R60, R61). -/
def roundedFine (c : Capture) (delay : Nat) : Int × Int :=
  roundFine (normalise (fineTime c delay)).1 (normalise (fineTime c delay)).2

/-- Whole seconds pass through the rounding. -/
theorem thirtySeconds_seconds_add (sec fine : Int) :
    thirtySeconds (sec * Config.oneSecond + fine) = sec * 32000000000 + thirtySeconds fine := by
  simp only [thirtySeconds, Config.oneSecond]
  omega

/-- The share of the increment is less than one increment, so less than a second (R58). -/
theorem phaseTerm_range {c : Capture} (low : 0 ≤ c.snap.increment) (high : c.snap.increment ≤ 10744934433) :
    0 ≤ phaseTerm c ∧ phaseTerm c ≤ 10744934433 := by
  have phase := c.stamp.p.isLt
  have product : c.stamp.p.toNat * c.snap.increment ≤ 16 * 10744934433 :=
    mul_le_mul (by omega) high low (by decide)
  have nonneg : 0 ≤ c.stamp.p.toNat * c.snap.increment := mul_nonneg (by omega) low
  unfold phaseTerm
  omega

/-- Within the ranges of the rules one borrow or one carry is enough (R60). -/
theorem fineTime_range {c : Capture} {delay : Nat} (sub : c.snap.sub < Config.oneSecond) (short : delay ≤ 65535)
    (low : 0 ≤ c.snap.increment) (high : c.snap.increment ≤ 10744934433) :
    -(Config.oneSecond : Int) ≤ fineTime c delay ∧ fineTime c delay < 2 * Config.oneSecond := by
  have phase := phaseTerm_range low high
  simp only [fineTime, Config.oneSecond, Config.oneThirtySecond] at *
  omega

/-- Bringing a time into one second moves whole seconds to the adjustment (R60). -/
theorem normalise_spec {fine : Int} (low : -(Config.oneSecond : Int) ≤ fine) (high : fine < 2 * Config.oneSecond) :
    0 ≤ (normalise fine).1 ∧ (normalise fine).1 < Config.oneSecond ∧ -1 ≤ (normalise fine).2
      ∧ (normalise fine).2 * Config.oneSecond + (normalise fine).1 = fine := by
  unfold normalise
  split
  next => simp only; omega
  next => split <;> (simp only; omega)

/-- A rounding up to a full second is carried; otherwise the subsecond value is the rounded one (R61). -/
theorem roundFine_spec {fine : Int} (adjustment : Int) (low : 0 ≤ fine) (high : fine < Config.oneSecond) :
    0 ≤ (roundFine fine adjustment).1 ∧ (roundFine fine adjustment).1 < 32000000000
      ∧ adjustment ≤ (roundFine fine adjustment).2
      ∧ (roundFine fine adjustment).2 * 32000000000 + (roundFine fine adjustment).1
        = adjustment * 32000000000 + thirtySeconds fine := by
  obtain ⟨nonneg, within⟩ : 0 ≤ thirtySeconds fine ∧ thirtySeconds fine ≤ 32000000000 := by
    simp only [thirtySeconds, Config.oneSecond] at *
    omega
  by_cases full : thirtySeconds fine = 32000000000
  · rw [show roundFine fine adjustment = (0, adjustment + 1) from if_pos full]
    simp only
    omega
  · rw [show roundFine fine adjustment = (thirtySeconds fine, adjustment) from if_neg full]
    exact ⟨nonneg, lt_of_le_of_ne within full, le_rfl, rfl⟩

/-- The subsecond and the carry of a composition are the quotient and the remainder of one rounding (R59 to R61). -/
theorem roundedFine_spec {c : Capture} {delay : Nat} (low : -(Config.oneSecond : Int) ≤ fineTime c delay)
    (high : fineTime c delay < 2 * Config.oneSecond) :
    0 ≤ (roundedFine c delay).1 ∧ (roundedFine c delay).1 < 32000000000 ∧ -1 ≤ (roundedFine c delay).2
      ∧ (roundedFine c delay).2 * 32000000000 + (roundedFine c delay).1 = thirtySeconds (fineTime c delay) := by
  obtain ⟨nonneg, within, borrow, total⟩ := normalise_spec low high
  obtain ⟨q_nonneg, q_lt, carry, rounded⟩ := roundFine_spec (normalise (fineTime c delay)).2 nonneg within
  refine ⟨q_nonneg, q_lt, borrow.trans carry, ?_⟩
  rw [roundedFine, rounded, ← thirtySeconds_seconds_add, total]

/-! ### The composed time -/

/-- The seconds wrap at 2^32 (R62). -/
theorem composedSeconds_toNat (sec : BitVec 32) (adjustment : Int) :
    ((composedSeconds sec adjustment).toNat : Int) = (sec.toNat + adjustment) % 4294967296 := by
  simp only [composedSeconds, BitVec.toNat_add, BitVec.toNat_ofInt]
  omega

/-- A borrow from second 0 clamps the time (R62). -/
theorem compose_clamped {c : Capture} {delay : Nat} (h : (roundedFine c delay).2 = -1 ∧ c.snap.sec = 0) :
    compose c delay = { time := { sec := 0, ns := 0, th := 0 }, clamped := true, q := (roundedFine c delay).1.toNat } :=
  if_pos h

/-- Without a borrow from second 0 the seconds take the carry, and the subsecond value is split (R62). -/
theorem compose_unclamped {c : Capture} {delay : Nat} (h : ¬((roundedFine c delay).2 = -1 ∧ c.snap.sec = 0)) :
    compose c delay =
      { time := { sec := composedSeconds c.snap.sec (roundedFine c delay).2
                  ns := (roundedFine c delay).1.toNat / 32, th := (roundedFine c delay).1.toNat % 32 }
        clamped := false, q := (roundedFine c delay).1.toNat } :=
  if_neg h

@[simp] theorem compose_q (c : Capture) (delay : Nat) : (compose c delay).q = (roundedFine c delay).1.toNat := by
  by_cases clamped : (roundedFine c delay).2 = -1 ∧ c.snap.sec = 0
  · rw [compose_clamped clamped]
  · rw [compose_unclamped clamped]

/-- A time of so many seconds and a subsecond lies before zero exactly if it borrows from second 0. -/
theorem seconds_borrow_iff (sec : BitVec 32) {adjustment q : Int} (borrow : -1 ≤ adjustment) (q_nonneg : 0 ≤ q)
    (q_lt : q < 32000000000) : (sec.toNat + adjustment) * 32000000000 + q < 0 ↔ adjustment = -1 ∧ sec = 0 := by
  rw [show sec = 0 ↔ sec.toNat = 0 from BitVec.toNat_inj (y := 0).symm]
  omega

/-- Seconds that wrap, with a subsecond below a second: the whole modulo 2^32 seconds. -/
theorem wrapped_seconds_add (sec : Int) {q : Int} (q_nonneg : 0 ≤ q) (q_lt : q < 32000000000) :
    sec % 4294967296 * 32000000000 + q = (sec * 32000000000 + q) % (4294967296 * 32000000000) := by
  omega

/-- Settles O48: the rounding happens once, in the fine time; the seconds only take its carry. -/
theorem compositionIsOneRounding : Obligations.CompositionIsOneRounding := by
  intro c delay sub short low high exact x r
  obtain ⟨fine_low, fine_high⟩ := fineTime_range sub short (by omega) high
  obtain ⟨q_nonneg, q_lt, borrow, rounded⟩ := roundedFine_spec fine_low fine_high
  have exact_eq : exact = c.snap.sec.toNat * Config.oneSecond + fineTime c delay := by
    simp only [exact, fineTime, phaseTerm, Config.oneThirtySecond]
    omega
  have x_eq : x = (c.snap.sec.toNat + (roundedFine c delay).2) * 32000000000 + (roundedFine c delay).1 := by
    rw [add_mul, add_assoc, rounded, ← thirtySeconds_seconds_add, ← exact_eq]
    rfl
  have before_zero : x < 0 ↔ (roundedFine c delay).2 = -1 ∧ c.snap.sec = 0 :=
    x_eq ▸ seconds_borrow_iff c.snap.sec borrow q_nonneg q_lt
  refine ⟨?subsecond, fun negative => ?clamped, fun nonneg => ?unclamped⟩
  case subsecond =>
    rw [compose_q, x_eq]
    omega
  case clamped =>
    have value := compose_clamped (before_zero.mp negative)
    exact ⟨congrArg Composed.clamped value, congrArg Composed.time value⟩
  case unclamped =>
    have value := compose_unclamped (mt before_zero.mpr (not_lt.mpr nonneg))
    have total := wrapped_seconds_add (c.snap.sec.toNat + (roundedFine c delay).2) q_nonneg q_lt
    rw [← x_eq, ← composedSeconds_toNat] at total
    rw [show r = _ from value]
    refine ⟨rfl, ?_, ?_, ?_⟩ <;> simp only <;> omega

/-! ### The lead -/

/-- A signed number in the range of a field of four bytes reads back from them (10). -/
theorem signedOf_leNat_leInt_four {i : Int} (low : -2147483648 ≤ i) (high : i < 2147483648) :
    signedOf 4 (leNat (leInt 4 i)) = i := by
  rw [leInt, leNat_leBytes, signedOf]
  split <;> omega

/-- The exact lead, where it is within the limits, and otherwise the limit on its side (R66). -/
theorem leadOf_cases (winner partner : Stamp) (winnerDelay partnerDelay : Nat) :
    let exact := exactLead winner winnerDelay partner partnerDelay
    let lead := leadOf winner winnerDelay partner partnerDelay
    (2147483647 < exact ∧ lead = 2147483647) ∨ (exact < -2147483647 ∧ lead = -2147483647)
      ∨ (-2147483647 ≤ exact ∧ exact ≤ 2147483647 ∧ lead = exact) := by
  simp only [leadOf]
  omega

/-- The lead fits a field of four bytes (R66). -/
theorem leadOf_range (winner partner : Stamp) (winnerDelay partnerDelay : Nat) :
    -2147483647 ≤ leadOf winner winnerDelay partner partnerDelay
      ∧ leadOf winner winnerDelay partner partnerDelay ≤ 2147483647 := by
  unfold leadOf
  omega

/-- Settles O49: saturation keeps the sign of the exact lead. -/
theorem leadIsSaturatedDifference : Obligations.LeadIsSaturatedDifference := by
  intro f e w d exact lead
  have saturation : (2147483647 < exact ∧ lead = 2147483647) ∨ (exact < -2147483647 ∧ lead = -2147483647)
      ∨ (-2147483647 ≤ exact ∧ exact ≤ 2147483647 ∧ lead = exact) :=
    leadOf_cases w.stamp f.capture.stamp w.delay f.delay
  have inverted : (partnerRecord f e w).inverted = true ↔ lead < 0 := decide_eq_true_iff
  obtain ⟨low, high⟩ : -2147483647 ≤ lead ∧ lead ≤ 2147483647 :=
    leadOf_range w.stamp f.capture.stamp w.delay f.delay
  refine ⟨by omega, by omega, by omega, inverted.trans (by omega), ?_⟩
  exact signedOf_leNat_leInt_four (by omega) (by omega)

end Sys2Proof.Machine
end

section
/-! SUPPORT. The channels, the pool and the Table's inputs across the operations of the other blocks: all stay as they
were. -/

namespace Sys2Proof.Machine

/-- t has the channels, the pool, the creation order and the classified frames of s. -/
@[simp] abbrev State.SameTable (s t : State) : Prop :=
  t.channels = s.channels ∧ t.entries = s.entries ∧ t.nextOrder = s.nextOrder ∧ t.input = s.input
    ∧ t.waiting = s.waiting

theorem State.SameTable.rfl {s : State} : s.SameTable s := ⟨Eq.refl _, Eq.refl _, Eq.refl _, Eq.refl _, Eq.refl _⟩

theorem State.SameTable.trans {s t u : State} (h : s.SameTable t) (g : t.SameTable u) : s.SameTable u := by
  obtain ⟨channels, entries, order, input, waiting⟩ := h
  obtain ⟨channels', entries', order', input', waiting'⟩ := g
  exact ⟨channels'.trans channels, entries'.trans entries, order'.trans order, input'.trans input, waiting'.trans waiting⟩

theorem State.Reports.sameTable {s t : State} (h : s.Reports t) : s.SameTable t := by rw [h.eq]; exact .rfl
theorem State.LaneOnly.sameTable {s t : State} (h : s.LaneOnly t) : s.SameTable t := by rw [h.eq]; exact .rfl

/-- An operation that leaves the Table alone, carried out only where a condition holds. -/
theorem State.SameTable.ite {s t : State} {c : Prop} [Decidable c] (h : s.SameTable t) :
    s.SameTable (if c then t else s) := by
  split
  · exact h
  · exact .rfl

/-- An owner whose action leaves the Table alone. -/
theorem State.carryOut_sameTable {act : List Byte → State → State} (h : ∀ slot u, State.SameTable u (act slot u))
    (code : Nat) (s : State) : s.SameTable (s.carryOut code act) := by
  rcases s.carryOut_cases code act with e | ⟨slot, e⟩ <;> rw [e]
  · exact .rfl
  · exact h slot s.begun

/-- So does a fold of steps of which each leaves it alone. -/
theorem foldl_sameTable {α : Type} {f : State → α → State} (h : ∀ u a, State.SameTable u (f u a)) (xs : List α)
    (s : State) : s.SameTable (xs.foldl f s) := by
  induction xs generalizing s with
  | nil => exact .rfl
  | cons x xs ih => exact (h s x).trans (ih _)

/-! ### The Timebase and the discipline -/

@[simp] theorem stepTo_sameTable (cause : StepCause) (total offset : Int) (s : State) :
    s.SameTable (stepTo cause total offset s) := by simp [stepTo]

@[simp] theorem stepBy_sameTable (cause : StepCause) (offset ns : Int) (s : State) :
    s.SameTable (stepBy cause offset ns s) := by simp [stepBy]

theorem carrySetTime_sameTable (slot : List Byte) (s : State) : s.SameTable (carrySetTime slot s) := by
  unfold carrySetTime
  dsimp only
  split <;> simp

theorem carryAdjustTime_sameTable (slot : List Byte) (s : State) : s.SameTable (carryAdjustTime slot s) := by
  unfold carryAdjustTime
  dsimp only
  split
  · simp
  · split
    · simp [adjustStep]
    · simp [adjustSlew]

theorem carrySetFrequency_sameTable (slot : List Byte) (s : State) : s.SameTable (carrySetFrequency slot s) := by
  simp [carrySetFrequency]

@[simp] theorem State.causeOnChange_sameTable (s : State) (q : Quality) : s.SameTable (s.causeOnChange q) := by
  rw [s.causeOnChange_bus q]; exact .rfl

@[simp] theorem State.offerTime_sameTable (s : State) (r : TimeRecord) : s.SameTable (s.offerTime r) := by
  simp [State.offerTime]

theorem captureEdge_sameTable (within : CycleFraction) (s : State) : s.SameTable (captureEdge within s) := by
  unfold captureEdge
  split <;> simp

theorem processEdge_sameTable (e : Edge) (s : State) : s.SameTable (processEdge e s) := by
  unfold processEdge
  dsimp only
  split <;> simp

@[simp] theorem applyCorrection_sameTable (c : Correction) (s : State) : s.SameTable (applyCorrection c s) := by
  cases c <;> simp [applyCorrection]

theorem takeCorrection_sameTable (e : Edge) (m : Measured) (c : Correction) (s : State) :
    s.SameTable (takeCorrection e m c s) := by
  unfold takeCorrection
  split <;> simp [State.answerEdge]

@[simp] theorem completeAnswered_sameTable (s : State) : s.SameTable (completeAnswered s) := by
  unfold completeAnswered
  split
  · split <;> simp [completeEdge]
  · simp

theorem applyDiscipline_sameTable (p : DisciplineParams) (s : State) : s.SameTable (applyDiscipline p s) := by
  unfold applyDiscipline
  split
  · simp
  · split
    · unfold disableDiscipline
      dsimp only
      split <;> simp [State.handSlewRate]
    · simp [State.handSlewRate]

theorem carryDisciplineSet_sameTable (slot : List Byte) (s : State) : s.SameTable (carryDisciplineSet slot s) := by
  unfold carryDisciplineSet
  split
  · simp
  · simp [applyDiscipline_sameTable]

/-! ### The ports -/

@[simp] theorem portNotice_sameTable (k : PortNo) (n : Nat) (s : State) : s.SameTable (portNotice k n s) := by
  simp [portNotice]

@[simp] theorem abortFrame_sameTable (k : PortNo) (s : State) : s.SameTable (abortFrame k s) := by
  rw [abortFrame_eq]
  split <;> simp

theorem changeLink_sameTable (k : PortNo) (link : LinkState) (s : State) : s.SameTable (changeLink k link s) := by
  unfold changeLink
  dsimp only
  split
  · exact .rfl
  · split <;> split <;> simp

theorem latchFrame_sameTable (k : PortNo) (within : CycleFraction) (s : State) : s.SameTable (latchFrame k within s) := by
  unfold latchFrame
  dsimp only
  split <;> simp

@[simp] theorem countError_sameTable (k : PortNo) (s : State) : s.SameTable (countError k s) := by
  unfold countError
  dsimp only
  split <;> simp

theorem checkFrame_sameTable (f : Frame) (s : State) : s.SameTable (checkFrame f s) := by
  have good : s.SameTable (goodFrame f s) := by
    unfold goodFrame
    dsimp only
    split
    · simp
    · split <;> simp
  have bad : s.SameTable (badFrame f s) := by
    unfold badFrame
    dsimp only
    split <;> simp
  unfold checkFrame
  split
  · simp
  · split
    · simp
    · split
      · exact good
      · exact bad

theorem endFrame_sameTable (k : PortNo) (bytes : List Byte) (s : State) : s.SameTable (endFrame k bytes s) := by
  unfold endFrame
  dsimp only
  split
  · exact checkFrame_sameTable _ (s.setPort k { s.port k with latch := none })
  · exact .rfl

theorem endWindow_sameTable (k : PortNo) (start : Count) (s : State) : s.SameTable (endWindow k start s) := by
  unfold endWindow
  dsimp only
  split <;> simp

theorem carryPortSet_sameTable (slot : List Byte) (s : State) : s.SameTable (carryPortSet slot s) := by
  unfold carryPortSet
  split
  · simp
  · rename_i p _
    have applied : s.SameTable (applyPort p s) := by
      unfold applyPort
      dsimp only
      split
      · simp
      · split <;> simp [enablePort, disablePort]
    simp [applied]

theorem carryPortReadmit_sameTable (slot : List Byte) (s : State) : s.SameTable (carryPortReadmit slot s) := by
  unfold carryPortReadmit
  split
  · simp
  · rename_i k _
    have readmitted : s.SameTable (readmit k s) := by
      unfold readmit
      dsimp only
      split
      · split <;> simp
      · simp
    simp [readmitted]

/-! ### The Classifier -/

theorem setAsideUnmapped_sameTable (f : Frame) (reason : Reason) (s : State) :
    s.SameTable (setAsideUnmapped f reason s) := by
  unfold setAsideUnmapped
  dsimp only
  split <;> simp

theorem setAsideForeign_sameTable (f : Frame) (entry : MapEntry) (reason : Reason) (s : State) :
    s.SameTable (setAsideForeign f entry reason s) := by
  unfold setAsideForeign
  dsimp only
  split <;> simp

@[simp] theorem changeMaps_sameTable (ports : List PortNo) (change : AddressMap → AddressMap) (s : State) :
    s.SameTable (changeMaps ports change s) :=
  foldl_sameTable (f := fun t k => t.setMap k (change (t.map k))) (fun _ _ => .rfl) ports s

theorem carryMapAdd_sameTable (slot : List Byte) (s : State) : s.SameTable (carryMapAdd slot s) := by
  unfold carryMapAdd
  split
  · simp
  · split
    · simp
    · split
      · simp
      · simp

theorem carryMapRemove_sameTable (slot : List Byte) (s : State) : s.SameTable (carryMapRemove slot s) := by
  unfold carryMapRemove
  dsimp only
  split
  · simp
  · split
    · simp
    · simp

theorem carryPatternLoad_sameTable (slot : List Byte) (s : State) : s.SameTable (carryPatternLoad slot s) := by
  unfold carryPatternLoad
  dsimp only
  split <;> simp

/-! ### The Staging Buffer and the Lane Writers -/

theorem carryPartitionSet_sameTable (slot : List Byte) (s : State) : s.SameTable (carryPartitionSet slot s) := by
  unfold carryPartitionSet
  dsimp only
  split
  · simp
  · split
    · simp
    · simpa using foldl_sameTable (fun u l => by simp [setPartition]) _ s

theorem carryLaneOpen_sameTable (slot : List Byte) (s : State) : s.SameTable (carryLaneOpen slot s) := by
  unfold carryLaneOpen
  split
  · simp
  · dsimp only
    split
    · simp
    · split
      · simp
      · split <;> simp

theorem pageListRead_sameTable (l : LaneNo) (o : Opening) (pages : List Address) (s : State) :
    s.SameTable (pageListRead l o pages s) := by
  unfold pageListRead
  dsimp only
  split <;> simp

@[simp] theorem endClose_sameTable (l : LaneNo) (outcome : ReqOutcome) (n : Nat) (s : State) :
    s.SameTable (endClose l outcome n s) := by
  have closed := ((State.LaneOnly.refl (s := s)).closePage l .flush).announceRest l
  simpa [endClose] using closed.sameTable

@[simp] theorem closeWithLoss_sameTable (l : LaneNo) (s : State) : s.SameTable (closeWithLoss l s) := by
  simp [closeWithLoss]

theorem carryLaneClose_sameTable (slot : List Byte) (s : State) : s.SameTable (carryLaneClose slot s) := by
  unfold carryLaneClose
  split
  · dsimp only
    split
    · simp
    · split <;> simp
    · simp
    · simp
    · simp
  · simp
  · simp

theorem drainEnd_sameTable (l : LaneNo) (s : State) : s.SameTable (drainEnd l s) := by
  have formed : s.LaneOnly (formDropped l s) := State.LaneOnly.refl.formDropped l
  have sought := (formed.seekPage l).sameTable
  have written := (formed.writeNext l).sameTable
  unfold drainEnd
  dsimp only
  split
  · simp
  · split <;> split <;> simp [sought, written]

theorem ownerWordRead_sameTable (l : LaneNo) (r : ReadOp) (word : BitVec 32) (s : State) :
    s.SameTable (ownerWordRead l r word s) := by
  unfold ownerWordRead
  dsimp only
  split
  · exact (State.LaneOnly.refl.takePage l _).sameTable
  · split <;> simp

theorem ownerReadDone_sameTable (l : LaneNo) (r : ReadOp) (word : BitVec 32) (s : State) :
    s.SameTable (ownerReadDone l r word s) := by
  have noted : s.LaneOnly ((s.dropRead r.tag).noteAge r) := (State.LaneOnly.refl.dropRead r.tag).noteAge r
  unfold ownerReadDone
  dsimp only
  split
  · exact noted.sameTable.trans (ownerWordRead_sameTable ..)
  · exact (noted.seekPage l).sameTable

/-! ### The Request Engine and the Bus Interface -/

@[simp] theorem beginScan_sameTable (s : State) : s.SameTable (beginScan s) := by
  unfold beginScan
  split <;> simp [readSlotState]

@[simp] theorem passSlot_sameTable (scan : Scan) (s : State) : s.SameTable (passSlot scan s) := by
  unfold passSlot
  split <;> simp [readSlotState]

theorem slotReadDone_sameTable (r : ReadOp) (bytes : List Byte) (s : State) : s.SameTable (slotReadDone r bytes s) := by
  unfold slotReadDone
  split
  · split
    · unfold slotWholeRead
      split <;> simp [takeSlot]
    · unfold slotStateRead
      split <;> simp
  · simp
  · simp

@[simp] theorem completeRequest_sameTable (slot : List Byte) (a : Answer) (s : State) :
    s.SameTable (completeRequest slot a s) := by simp [completeRequest]

theorem failRead_sameTable (r : ReadOp) (s : State) : s.SameTable (failRead r s) := by
  unfold failRead
  split <;> simp [enterFaulted]

theorem presentArea_sameTable (v : BitVec 64) (s : State) : s.SameTable (presentArea v s) := by
  unfold presentArea
  dsimp only
  split <;> simp [setArea]

theorem writeArea_sameTable (access : AreaWrite) (s : State) : s.SameTable (writeArea access s) := by
  cases access with
  | whole v => exact presentArea_sameTable v s
  | lowerHalf v => exact .rfl
  | upperHalf v => exact presentArea_sameTable _ s

/-! ### The Status Block and the counter snapshot -/

theorem refreshStatus_sameTable (s : State) : s.SameTable (refreshStatus s) := by
  simpa [refreshStatus] using foldl_sameTable (fun u f => by simp) (statusFields s (s.bus.refreshCount + 1)) s

theorem copyCounter_sameTable (c : SnapshotCopy) (name : Counter) (s : State) : s.SameTable (copyCounter c name s) := by
  unfold copyCounter afterCopy
  dsimp only
  split <;> split <;> simp

theorem carrySnapshot_sameTable (slot : List Byte) (s : State) : s.SameTable (carrySnapshot slot s) := by
  unfold carrySnapshot
  dsimp only
  split
  · split
    · simp
    · split <;> simp
  · simp

/-! ### Commands that act only in some states -/

section
variable {s t : State}

theorem execPpsEdge_sameTable {edge : EdgeKind} {within : CycleFraction} (e : execPpsEdge edge within s = .next t) :
    s.SameTable t := by
  cases e
  split
  · exact captureEdge_sameTable ..
  · simp

theorem execEdgeProcess_sameTable (e : execEdgeProcess s = .next t) : s.SameTable t := by
  cases e
  split
  · split
    · exact processEdge_sameTable ..
    · simp
  · simp

theorem execDisciplineCorrection_sameTable (e : execDisciplineCorrection s = .next t) : s.SameTable t := by
  cases e
  split
  · split
    · exact takeCorrection_sameTable ..
    · simp
    · simp
  · simp

theorem execHoldoverExpiry_sameTable (e : execHoldoverExpiry s = .next t) : s.SameTable t := by
  cases e
  split
  · simp [enterHoldover]
  · simp
theorem execErrorWindowEnd_sameTable {k : PortNo} (e : execErrorWindowEnd k s = .next t) : s.SameTable t := by
  cases e
  split
  · split
    · exact endWindow_sameTable ..
    · exact .rfl
  · exact .rfl

theorem execPageListReadDone_sameTable {tag : Nat} {bytes : List Byte} (e : execPageListReadDone tag bytes s = .next t) :
    s.SameTable t := by
  cases e
  split
  · split
    · split
      · split
        · simp [pageListRead_sameTable]
        · exact .rfl
      · exact .rfl
    · exact .rfl
    · exact .rfl
    · exact .rfl
  · exact .rfl

theorem execOfferRecord_sameTable {position : Nat} (e : execOfferRecord position s = .next t) : s.SameTable t := by
  cases e
  split
  · split
    · rename_i o _ _
      have taken (u : State) : u.SameTable (seekPage o.lane (takeOffer o u)) :=
        ((State.LaneOnly.refl.takeOffer o).seekPage o.lane).sameTable
      exact taken { s with offers := s.offers.eraseIdx position }
    · exact .rfl
  · exact .rfl

theorem execOwnerWordReadDone_sameTable {tag : Nat} {word : BitVec 32}
    (e : execOwnerWordReadDone tag word s = .next t) : s.SameTable t := by
  cases e
  split
  · split
    · split
      · exact .rfl
      · exact ownerReadDone_sameTable ..
    · exact .rfl
    · exact .rfl
    · exact .rfl
  · exact .rfl

theorem execSlotReadDone_sameTable {tag : Nat} {bytes : List Byte} (e : execSlotReadDone tag bytes s = .next t) :
    s.SameTable t := by
  cases e
  split
  · split
    · exact slotReadDone_sameTable ..
    · exact .rfl
  · exact .rfl

theorem execRequestComplete_sameTable (e : execRequestComplete s = .next t) : s.SameTable t := by
  cases e
  split <;> simp

theorem execBadRequest_sameTable (e : execBadRequest s = .next t) : s.SameTable t := by
  cases e
  split
  · split <;> simp
  · exact .rfl

theorem execNudge_sameTable (e : execNudge s = .next t) : s.SameTable t := by
  rw [← Host.Outcome.next.inj e]
  have reread (u : State) (l : LaneNo) : u.SameTable (reread l u) := (State.LaneOnly.refl.reread l).sameTable
  exact (beginScan_sameTable s).trans (foldl_sameTable reread (List.finRange 4) (beginScan s))

theorem execCounterCopy_sameTable (e : execCounterCopy s = .next t) : s.SameTable t := by
  cases e
  split
  · split
    · exact copyCounter_sameTable ..
    · exact .rfl
  · exact .rfl

theorem execReadFailure_sameTable {tag : Nat} (e : execReadFailure tag s = .next t) : s.SameTable t := by
  cases e
  split
  · split
    · exact .rfl
    · exact failRead_sameTable ..
  · exact .rfl

theorem execReadLimitExpiry_sameTable {tag : Nat} (e : execReadLimitExpiry tag s = .next t) : s.SameTable t := by
  cases e
  split
  · split
    · exact failRead_sameTable ..
    · exact .rfl
  · exact .rfl

end

end Sys2Proof.Machine
end

section
/-! SUPPORT. What each command can do to the channels, the pool and the Table's inputs, said once. -/

namespace Sys2Proof.Machine

/-- What a command makes of a state, as far as the channels, the pool and the Table's inputs go. -/
inductive TableStep (s : State) : Instr → State → Prop
  | same {t : State} (c : Instr) (h : s.SameTable t) : TableStep s c t
  | reset {t : State} (c : Instr) (h : State.reset.SameTable t) : TableStep s c t
  | classify (k : PortNo) : TableStep s (.classifyFrame k) (classifyHead k s)
  | takeInput (k : PortNo) : TableStep s (.tableTakeFrame k) (takeInput k s)
  | takeExpiry : TableStep s .expiry (takeExpiry s)
  | channelSet (slot : List Byte) : TableStep s .channelSet (carryChannelSet slot s.begun)
  | channelStart (slot : List Byte) : TableStep s .channelStart (carryChannelStart slot s.begun)
  | channelStop (slot : List Byte) : TableStep s .channelStop (carryChannelStop slot s.begun)

theorem coldReset_sameTable (s : State) : State.reset.SameTable (coldReset s) := .rfl
theorem functionReset_sameTable (s : State) : State.reset.SameTable (functionReset s) := .rfl

section
variable {s t : State}

/-- An owner that carries out its request, or has none. -/
theorem TableStep.carryOut {c : Instr} {code : Nat} {act : List Byte → State → State}
    (h : ∀ slot, TableStep s c (act slot s.begun)) : TableStep s c (s.carryOut code act) := by
  rcases s.carryOut_cases code act with e | ⟨slot, e⟩ <;> rw [e]
  · exact .same c .rfl
  · exact h slot

/-- A CONTROL write is a function reset when it sets FRESET, and else changes the Bus Interface only. -/
theorem execSetEnables_tableStep {v : BitVec 32} (e : execSetEnables v s = .next t) :
    TableStep s (.setEnables v) t := by
  cases e
  split
  · exact .reset _ (functionReset_sameTable s)
  · exact .same _ .rfl

/-- The inversion of exec for the Table: the resets and six commands act on it, every other leaves it as it was. -/
theorem exec_tableStep (c : Instr) (e : exec c s = .next t) : TableStep s c t := by
  cases c with
  | coldReset => cases e; exact .reset _ (coldReset_sameTable s)
  | functionReset => cases e; exact .reset _ (functionReset_sameTable s)
  | oscillatorCycleEnd => cases e; exact .same _ .rfl
  | linkChange port link => cases e; exact .same _ (changeLink_sameTable port link s)
  | frameFirstByte port within => cases e; exact .same _ (latchFrame_sameTable port within s)
  | endOfFrame port bytes => cases e; exact .same _ (endFrame_sameTable port bytes s)
  | errorWindowEnd port => exact .same _ (execErrorWindowEnd_sameTable e)
  | classifyFrame port => cases e; exact .classify port
  | tableTakeFrame port => cases e; exact .takeInput port
  | expiry => cases e; exact .takeExpiry
  | ppsEdge edge within => exact .same _ (execPpsEdge_sameTable e)
  | edgeProcess => exact .same _ (execEdgeProcess_sameTable e)
  | disciplineCorrection => exact .same _ (execDisciplineCorrection_sameTable e)
  | edgeComplete => cases e; exact .same _ (completeAnswered_sameTable s)
  | holdoverExpiry => exact .same _ (execHoldoverExpiry_sameTable e)
  | setTime => cases e; exact .same _ (State.carryOut_sameTable carrySetTime_sameTable ..)
  | adjustTime => cases e; exact .same _ (State.carryOut_sameTable carryAdjustTime_sameTable ..)
  | setFrequency => cases e; exact .same _ (State.carryOut_sameTable carrySetFrequency_sameTable ..)
  | disciplineSet => cases e; exact .same _ (State.carryOut_sameTable carryDisciplineSet_sameTable ..)
  | portSet => cases e; exact .same _ (State.carryOut_sameTable carryPortSet_sameTable ..)
  | portReadmit => cases e; exact .same _ (State.carryOut_sameTable carryPortReadmit_sameTable ..)
  | mapAdd => cases e; exact .same _ (State.carryOut_sameTable carryMapAdd_sameTable ..)
  | mapRemove => cases e; exact .same _ (State.carryOut_sameTable carryMapRemove_sameTable ..)
  | patternLoad => cases e; exact .same _ (State.carryOut_sameTable carryPatternLoad_sameTable ..)
  | channelSet => cases e; exact .carryOut .channelSet
  | channelStart => cases e; exact .carryOut .channelStart
  | channelStop => cases e; exact .carryOut .channelStop
  | laneOpen => cases e; exact .same _ (State.carryOut_sameTable carryLaneOpen_sameTable ..)
  | pageListReadDone read bytes => exact .same _ (execPageListReadDone_sameTable e)
  | laneClose => cases e; exact .same _ (State.carryOut_sameTable carryLaneClose_sameTable ..)
  | closeDrainEnd lane => cases e; exact .same _ (drainEnd_sameTable lane s).ite
  | partitionSet => cases e; exact .same _ (State.carryOut_sameTable carryPartitionSet_sameTable ..)
  | countersSnapshot => cases e; exact .same _ (State.carryOut_sameTable carrySnapshot_sameTable ..)
  | counterCopy => exact .same _ (execCounterCopy_sameTable e)
  | badRequest => exact .same _ (execBadRequest_sameTable e)
  | scanTimer => cases e; exact .same _ (.ite (beginScan_sameTable { s with bus := { s.bus with scanTaken := true } }))
  | nudge => exact .same _ (execNudge_sameTable e)
  | slotReadDone read bytes => exact .same _ (execSlotReadDone_sameTable e)
  | requestComplete => exact .same _ (execRequestComplete_sameTable e)
  | areaBaseWrite access => cases e; exact .same _ (writeArea_sameTable access s)
  | setEnables value => exact execSetEnables_tableStep e
  | causeRead => cases e; exact .same _ .rfl
  | ignoredRegisterWrite offset value => cases e; exact .same _ .rfl
  | statusRefresh =>
    cases e; exact .same _ (.ite (refreshStatus_sameTable { s with bus := { s.bus with refreshTaken := true } }))
  | readFailure read => exact .same _ (execReadFailure_sameTable e)
  | readLimitExpiry read => exact .same _ (execReadLimitExpiry_sameTable e)
  | offerRecord position => exact .same _ (execOfferRecord_sameTable e)
  | ownerWordReadDone read word => exact .same _ (execOwnerWordReadDone_sameTable e)
  | starvedReread lane => cases e; exact .same _ (State.LaneOnly.refl.reread lane).sameTable.ite
  | writeRecord lane => cases e; exact .same _ (State.LaneOnly.refl.writeNext lane).sameTable.ite
  | lingerExpiry lane => cases e; exact .same _ (State.LaneOnly.refl.lingerEnd lane).sameTable.ite
  | holdoffExpiry lane => cases e; exact .same _ (State.LaneOnly.refl.holdoffEnd lane).sameTable.ite

end

end Sys2Proof.Machine
end

section
/-! SUPPORT. Ranges behind NextSeq: distances modulo M, the parts of a range, and lists of entries whose ranges lie behind
NextSeq and apart from each other (R80, R90, R91). -/

namespace Sys2Proof.Machine

/-! ### Distances -/

section
variable {m : Nat} (pos : 0 < m)
include pos

/-- A sequence number and its distance behind NextSeq add up to NextSeq, modulo M. -/
theorem add_behindBy (next first : Nat) : first + behindBy m next first ≡ next [MOD m] := by
  have whole : first + (next + (m - first % m)) = next + m * (first / m + 1) := by
    have := Nat.mod_lt first pos
    have := Nat.div_add_mod first m
    rw [Nat.mul_add]
    omega
  calc first + behindBy m next first
      ≡ first + (next + (m - first % m)) [MOD m] := (Nat.mod_modEq ..).add_left first
    _ ≡ next [MOD m] := by rw [whole]; exact Nat.add_mul_mod_self_left ..

/-- The distance is the one number below M that does so. -/
theorem behindBy_eq_iff {next first d : Nat} (lt : d < m) : behindBy m next first = d ↔ first + d ≡ next [MOD m] := by
  constructor
  · rintro rfl
    exact add_behindBy pos next first
  · intro h
    have same := ((add_behindBy pos next first).trans h.symm).add_left_cancel'
    exact same.eq_of_lt_of_lt (behindBy_lt m next first pos) lt

theorem behindBy_mod_left (next first : Nat) : behindBy m (next % m) first = behindBy m next first :=
  (behindBy_eq_iff pos (behindBy_lt m next first pos)).mpr ((add_behindBy pos next first).trans (Nat.mod_modEq ..).symm)

theorem behindBy_mod_right (next first : Nat) : behindBy m next (first % m) = behindBy m next first :=
  (behindBy_eq_iff pos (behindBy_lt m next first pos)).mpr
    (((Nat.mod_modEq first m).add_right _).trans (add_behindBy pos next first))

/-- A number stands as far behind another as was added to it. -/
theorem behindBy_add (first : Nat) {k : Nat} (lt : k < m) : behindBy m (first + k) first = k :=
  (behindBy_eq_iff pos lt).mpr rfl

/-- When NextSeq advances, a number falls back by the advance. -/
theorem behindBy_advance {next newNext first : Nat} (lt : behindBy m next first + behindBy m newNext next < m) :
    behindBy m newNext first = behindBy m next first + behindBy m newNext next := by
  refine (behindBy_eq_iff pos lt).mpr ?_
  rw [← Nat.add_assoc]
  exact ((add_behindBy pos next first).add_right _).trans (add_behindBy pos newNext next)

/-- A later number stands less far behind NextSeq. -/
theorem behindBy_later {next first later : Nat} (le : behindBy m later first ≤ behindBy m next first) :
    behindBy m next later = behindBy m next first - behindBy m later first := by
  refine (behindBy_eq_iff pos (Nat.lt_of_le_of_lt (Nat.sub_le ..) (behindBy_lt m next first pos))).mpr ?_
  calc later + (behindBy m next first - behindBy m later first)
      ≡ first + behindBy m later first + (behindBy m next first - behindBy m later first) [MOD m] :=
        (add_behindBy pos later first).symm.add_right _
    _ = first + behindBy m next first := by omega
    _ ≡ next [MOD m] := add_behindBy pos next first

/-- Of two numbers, if they are not the same, each stands behind the other by what is left of M. -/
theorem behindBy_swap {a b : Nat} (ne : behindBy m a b ≠ 0) : behindBy m b a = m - behindBy m a b := by
  have lt := behindBy_lt m a b pos
  refine (behindBy_eq_iff pos (by omega)).mpr ?_
  calc a + (m - behindBy m a b)
      ≡ b + behindBy m a b + (m - behindBy m a b) [MOD m] := (add_behindBy pos a b).symm.add_right _
    _ = b + m := by omega
    _ ≡ b [MOD m] := Nat.add_mod_right ..

end

/-! ### Ranges -/

theorem Entry.Apart.symm {m next : Nat} {a b : Entry} (h : Entry.Apart m next a b) : Entry.Apart m next b a := Or.symm h

/-- The range of p is part of the range of e. -/
structure Entry.PartOf (m next : Nat) (p e : Entry) : Prop where
  begins : behindBy m next p.first ≤ behindBy m next e.first
  ends : behindBy m next e.first + p.count ≤ behindBy m next p.first + e.count

/-- What lies apart from a range lies apart from its parts. -/
theorem Entry.Apart.part {m next : Nat} {e p x : Entry} (h : Entry.Apart m next e x) (part : p.PartOf m next e) :
    Entry.Apart m next p x := by
  obtain ⟨begins, ends⟩ := part
  unfold Entry.Apart at *
  omega

/-- Entries of a channel that lie behind NextSeq and apart from each other. -/
abbrev ChannelSettings.Tidy (c : ChannelSettings) (next : Nat) (es : List Entry) : Prop :=
  (∀ e ∈ es, e.Behind c next) ∧ es.Pairwise (Entry.Apart c.modulus next)

section
variable {c : ChannelSettings} {next : Nat} {es : List Entry}

theorem ChannelSettings.tidy_nil : c.Tidy next [] := ⟨by simp, .nil⟩

theorem ChannelSettings.Tidy.cons {e : Entry} (h : c.Tidy next es) (behind : e.Behind c next)
    (apart : ∀ x ∈ es, Entry.Apart c.modulus next e x) : c.Tidy next (e :: es) := by
  obtain ⟨behinds, aparts⟩ := h
  exact ⟨List.forall_mem_cons.mpr ⟨behind, behinds⟩, List.pairwise_cons.mpr ⟨apart, aparts⟩⟩

/-- Neither their order nor the leaving of some of them spoils it. -/
theorem ChannelSettings.Tidy.subperm {xs : List Entry} (h : c.Tidy next es) (sub : xs.Subperm es) : c.Tidy next xs := by
  obtain ⟨behinds, aparts⟩ := h
  obtain ⟨ys, perm, sub⟩ := sub
  exact ⟨fun e he => behinds e (sub.subset (perm.mem_iff.mpr he)),
    (aparts.sublist sub).perm perm Entry.Apart.symm⟩

/-- When NextSeq advances and every entry is still behind it, all fall back together. -/
theorem ChannelSettings.Tidy.advance (h : c.Tidy next es) {newNext k : Nat}
    (fell : ∀ e ∈ es, behindBy c.modulus newNext e.first = behindBy c.modulus next e.first + k) :
    c.Tidy newNext es := by
  obtain ⟨behinds, aparts⟩ := h
  constructor
  · intro e he
    obtain ⟨some', room, await, gap⟩ := behinds e he
    exact ⟨some', by rw [fell e he]; omega, await, gap⟩
  · refine aparts.imp_of_mem fun {a b} ha hb apart => ?_
    unfold Entry.Apart at *
    rw [fell a ha, fell b hb]
    omega

end

/-- M is 2^32 or 2^64, far above any count of messages (R80, R84). -/
theorem ChannelSettings.Sound.modulus_large {c : ChannelSettings} (h : c.Sound) : 4294967296 ≤ c.modulus := by
  obtain ⟨width | width, _⟩ := h <;> simp [ChannelSettings.modulus, width]

theorem ChannelSettings.Sound.limit {c : ChannelSettings} (h : c.Sound) : c.resyncLimit < c.modulus / 2 := h.2.2

end Sys2Proof.Machine
end

section
/-! SUPPORT. The entries of the channels behind NextSeq and apart: what the Table's operations add to the pool, and the
invariant while the NextSeq of one channel is on its way to a new value (R89 to R91). -/

namespace Sys2Proof.Machine

/-! ### What an operation adds to the pool -/

/-- t has the channels and the Table's inputs of s, and its pool holds no entries but those added and those of s. -/
structure State.Adds (s t : State) (added : List Entry) : Prop where
  channels : t.channels = s.channels
  input : t.input = s.input
  waiting : t.waiting = s.waiting
  entries : t.entries.Subperm (added ++ s.entries)

section
variable {s t u : State} {added : List Entry}

theorem State.Adds.refl (s : State) : s.Adds s [] := ⟨rfl, rfl, rfl, .refl _⟩

theorem State.Adds.trans {more : List Entry} (h : s.Adds t added) (g : t.Adds u more) : s.Adds u (more ++ added) := by
  refine ⟨g.channels.trans h.channels, g.input.trans h.input, g.waiting.trans h.waiting, g.entries.trans ?_⟩
  rw [List.append_assoc]
  exact (List.subperm_append_left more).mpr h.entries

/-- Offers, counters and the creation order play no part. -/
theorem State.Adds.then (h : s.Adds t added) (g : t.Adds u []) : s.Adds u added := h.trans g

theorem State.Adds.channel (h : s.Adds t added) (ch : ChannelNo) : t.channel ch = s.channel ch := by
  simp only [State.channel, h.channels]

theorem bump_adds (s : State) (c : Counter) : s.Adds (s.bump c) [] := ⟨rfl, rfl, rfl, .refl _⟩
theorem offerOwn_adds (f : Classified) (r : Record) (s : State) : s.Adds (offerOwn f r s) [] := ⟨rfl, rfl, rfl, .refl _⟩
theorem reportEntry_adds (e : Entry) (why : Removal) (frame : Option FrameTag) (s : State) :
    s.Adds (reportEntry e why frame s) [] := ⟨rfl, rfl, rfl, .refl _⟩
theorem heartbeatRecord_adds (f : Classified) (flags : ArrivalFlags) (s : State) :
    s.Adds (heartbeatRecord f flags s) [] := offerOwn_adds ..

theorem State.Adds.erase (s : State) (e : Entry) : s.Adds { s with entries := s.entries.erase e } [] :=
  ⟨rfl, rfl, rfl, List.erase_subperm ..⟩

theorem removeEntry_adds (e : Entry) (why : Removal) (frame : Option FrameTag) (s : State) :
    s.Adds (removeEntry e why frame s) [] := ⟨rfl, rfl, rfl, List.erase_subperm ..⟩

theorem evictEntry_adds (e : Entry) (frame : FrameTag) (s : State) : s.Adds (evictEntry e frame s) [] :=
  (removeEntry_adds ..).then (bump_adds ..)

theorem rejectFrame_adds (f : Classified) (flags : ArrivalFlags) (s : State) : s.Adds (rejectFrame f flags s) [] := by
  unfold rejectFrame
  split
  · exact offerOwn_adds ..
  · exact .refl _

theorem createEntry_adds (e : Entry) (s : State) : s.Adds (createEntry e s) [{ e with order := s.nextOrder }] :=
  ⟨rfl, rfl, rfl, (insertEntry_perm ..).subperm⟩

/-- An eviction may come before a creation. -/
theorem State.Adds.create {e : Entry} (h : s.Adds t []) (order : t.nextOrder = s.nextOrder) :
    s.Adds (createEntry e t) [{ e with order := s.nextOrder }] := by
  rw [← order]
  exact h.trans (createEntry_adds e t)

theorem State.Adds.none (h : s.Adds t []) : s.Adds t added :=
  ⟨h.channels, h.input, h.waiting, h.entries.trans (List.sublist_append_right ..).subperm⟩

/-- A request adds the entry asked for, or nothing. -/
theorem requestEntry_adds (frame : FrameTag) (e : Entry) (filling : Option (BitVec 32)) (s : State) :
    s.Adds (requestEntry frame e filling s) [{ e with order := s.nextOrder }] := by
  have emitted : s.Adds (emitAtOnce frame e s) [] := (reportEntry_adds ..).then (bump_adds ..)
  unfold requestEntry
  split
  · split
    · exact (evictEntry_adds ..).create rfl
    · exact emitted.none
  · split
    · split
      · exact ((evictEntry_adds ..).then (bump_adds ..)).create rfl
      · exact emitted.none
    · exact createEntry_adds ..

/-- A publication adds its AWAIT entry on a PAIRED channel, and nothing on a SINGLE one. -/
theorem publish_adds (f : Classified) (flags : ArrivalFlags) (first k : Nat) (filling : Option (BitVec 32)) (s : State) :
    s.Adds (publish f flags first k filling s)
      (if (s.channel f.channel).settings.mode = .paired then
        [{ f.awaitEntry (s.channel f.channel).settings first k with order := s.nextOrder }] else []) := by
  have recorded (u : State) :
      u.Adds ((offerOwn f (f.arrival { flags with published := true } first k) u).bump (.table f.channel .published)) [] :=
    (offerOwn_adds ..).then (bump_adds ..)
  unfold publish
  dsimp only
  split
  · exact (requestEntry_adds ..).then (recorded _)
  · exact recorded _

@[simp] theorem flushEntries_entries (frame : Option FrameTag) (es : List Entry) (s : State) :
    (flushEntries frame es s).entries = s.entries.diff es := by rw [flushEntries_eq]

theorem flushEntries_adds (frame : Option FrameTag) (es : List Entry) (s : State) :
    s.Adds (flushEntries frame es s) [] := by
  rw [flushEntries_eq]
  exact ⟨rfl, rfl, rfl, (List.diff_sublist ..).subperm⟩

/-- The entries of a channel come from those added and those it had. -/
theorem State.Adds.channelEntries (h : s.Adds t added) (ch : ChannelNo) :
    (t.channelEntries ch).Subperm ((added.filter fun e => decide (e.channel = ch)) ++ s.channelEntries ch) := by
  rw [State.channelEntries, State.channelEntries, ← List.filter_append]
  exact h.entries.filter _

end

/-! ### The invariant, with the NextSeq of one channel on its way -/

/-- Every classified frame on its way to the Table counts at most 65,535 messages (R80). -/
abbrev State.CountsBounded (s : State) : Prop :=
  ∀ k : PortNo, (∀ f ∈ s.inputOf k, f.c ≤ 65535) ∧ ∀ f ∈ s.waitingOf k, f.c ≤ 65535

/-- The invariant of O55, but with a given number for the NextSeq of one channel, which is ON and stands at x. -/
structure State.ApartAt (s : State) (ch : ChannelNo) (x : Channel) (next : Nat) : Prop where
  channel : s.channel ch = x
  on : x.on = true
  sound : x.settings.Sound
  tidy : x.settings.Tidy next (s.channelEntries ch)
  others : ∀ j, j ≠ ch → s.ChannelApart j
  counts : s.CountsBounded

/-- Every entry of a channel leaves so much room before NextSeq. -/
abbrev State.Room (s : State) (ch : ChannelNo) (m next k : Nat) : Prop :=
  ∀ e ∈ s.channelEntries ch, e.count + k ≤ behindBy m next e.first

section
variable {s t : State} {ch : ChannelNo} {x : Channel} {next : Nat} {added : List Entry}

/-- A channel that stays as it was and gains no entry. -/
theorem State.ChannelApart.fewer (h : s.ChannelApart ch) (c : t.channel ch = s.channel ch)
    (sub : (t.channelEntries ch).Subperm (s.channelEntries ch)) : t.ChannelApart ch := by
  obtain ⟨sound, off, unset, set⟩ := h
  refine ⟨?_, ?_, ?_, ?_⟩ <;> rw [c]
  · exact sound
  · exact off
  · intro none'
    rw [unset none'] at sub
    exact List.subperm_nil.mp sub
  · intro next hn
    obtain ⟨bound, tidy⟩ := set next hn
    exact ⟨bound, ChannelSettings.Tidy.subperm tidy sub⟩

theorem State.Adds.counts (h : s.CountsBounded) (a : s.Adds t added) : t.CountsBounded := by
  simpa only [State.CountsBounded, State.inputOf, State.waitingOf, a.input, a.waiting] using h

/-- Operations that add nothing keep the invariant. -/
theorem State.EntriesApart.adds (h : s.EntriesApart) (a : s.Adds t []) : t.EntriesApart := by
  obtain ⟨channels, counts⟩ := h
  exact ⟨fun ch => (channels ch).fewer (a.channel ch) (a.channelEntries ch), a.counts counts⟩

/-- Operations that add entries of the channel keep it so if those fit in. -/
theorem State.ApartAt.adds (h : s.ApartAt ch x next) (a : s.Adds t added) (own : ∀ e ∈ added, e.channel = ch)
    (fits : x.settings.Tidy next (added ++ s.channelEntries ch)) : t.ApartAt ch x next := by
  refine ⟨(a.channel ch).trans h.channel, h.on, h.sound, ?_, fun j hj => ?_, a.counts h.counts⟩
  · refine fits.subperm ((a.channelEntries ch).trans ?_)
    exact (List.subperm_append_right _).mpr List.filter_sublist.subperm
  · refine (h.others j hj).fewer (a.channel j) ((a.channelEntries j).trans ?_)
    rw [List.filter_eq_nil_iff.mpr fun e he => by simp [own e he, hj.symm]]
    exact .refl _

/-- Operations that add nothing keep it too. -/
theorem State.ApartAt.adds_nil (h : s.ApartAt ch x next) (a : s.Adds t []) : t.ApartAt ch x next :=
  h.adds a (by simp) h.tidy

/-- The channel's NextSeq arrives at its new value. -/
theorem State.ApartAt.setNext (h : s.ApartAt ch x next) (lt : next < x.settings.modulus) :
    (setNext ch (some next) s).EntriesApart := by
  obtain ⟨rfl, on, sound, tidy, others, counts⟩ := h
  refine ⟨fun j => ?_, counts⟩
  by_cases hj : j = ch
  · subst hj
    refine ⟨?_, ?_, ?_, ?_⟩ <;> simp only [Machine.setNext, State.setChannel_channel_self]
    · exact sound
    · simp [on]
    · simp
    · rintro _ ⟨rfl⟩
      exact ⟨lt, tidy⟩
  · exact (others j hj).fewer (State.setChannel_channel_of_ne s _ (Ne.symm hj)) (.refl _)

/-- A channel whose NextSeq stays. -/
theorem State.ApartAt.stay (h : s.ApartAt ch x next) (lt : next < x.settings.modulus) (set : x.nextSeq = some next) :
    s.EntriesApart := by
  have same : Machine.setNext ch (some next) s = s := by
    unfold Machine.setNext
    rw [← set, ← h.channel]
    exact s.setChannel_channel ch
  rw [← same]
  exact h.setNext lt

/-- A channel without entries: NextSeq may come to any value. -/
theorem State.ApartAt.anywhere (h : s.ApartAt ch x next) (empty : s.channelEntries ch = []) (newNext : Nat) :
    s.ApartAt ch x newNext := by
  refine ⟨h.channel, h.on, h.sound, ?_, h.others, h.counts⟩
  rw [empty]
  exact ChannelSettings.tidy_nil

/-- A channel with NextSeq unset holds no entry, and NextSeq may come to any value. -/
theorem State.EntriesApart.atUnset (h : s.EntriesApart) (on : (s.channel ch).on = true)
    (unset : (s.channel ch).nextSeq = none) (next : Nat) :
    s.ApartAt ch (s.channel ch) next ∧ s.channelEntries ch = [] := by
  obtain ⟨channels, counts⟩ := h
  obtain ⟨sound, _, empty, _⟩ := channels ch
  refine ⟨⟨rfl, on, sound, ?_, fun j _ => channels j, counts⟩, empty unset⟩
  rw [empty unset]
  exact ChannelSettings.tidy_nil

theorem State.EntriesApart.atSet (h : s.EntriesApart) (on : (s.channel ch).on = true)
    (set : (s.channel ch).nextSeq = some next) :
    s.ApartAt ch (s.channel ch) next ∧ next < (s.channel ch).settings.modulus := by
  obtain ⟨channels, counts⟩ := h
  obtain ⟨sound, _, _, behind⟩ := channels ch
  obtain ⟨lt, tidy⟩ := behind next set
  exact ⟨⟨rfl, on, sound, tidy, fun j _ => channels j, counts⟩, lt⟩

end

end Sys2Proof.Machine
end

section
/-! SUPPORT. Every case of a frame keeps the entries behind NextSeq and apart (R93 to R108). -/

namespace Sys2Proof.Machine

@[simp] theorem passOver_channel (f : Classified) (next newNext : Nat) (s : State) (j : ChannelNo) :
    (passOver f next newNext s).channel j = s.channel j := (flushEntries_adds ..).channel j

section
variable (f : Classified) (c : ChannelSettings) (first k : Nat)

@[simp] theorem Classified.gapEntry_first : (f.gapEntry c first k).first = first := rfl
@[simp] theorem Classified.gapEntry_count : (f.gapEntry c first k).count = k := rfl
@[simp] theorem Classified.awaitEntry_first : (f.awaitEntry c first k).first = first := rfl
@[simp] theorem Classified.awaitEntry_count : (f.awaitEntry c first k).count = k := rfl

end

/-! ### The distances of a frame -/

section
variable {m : Nat} (pos : 0 < m) (f : Classified)
include pos

theorem Classified.after_lt : f.after m < m := Nat.mod_lt _ pos

theorem Classified.behindBy_after (lt : f.c < m) : behindBy m (f.after m) f.s = f.c := by
  rw [Classified.after, behindBy_mod_left pos, behindBy_add pos f.s lt]

/-- A frame at or ahead of NextSeq advances it by its distance and its count. -/
theorem Classified.behindBy_after_ahead {next : Nat} (lt : behindBy m f.s next + f.c < m) :
    behindBy m (f.after m) next = behindBy m f.s next + f.c := by
  have own := f.behindBy_after pos (Nat.lt_of_le_of_lt (Nat.le_add_left ..) lt)
  rw [behindBy_advance pos (next := f.s) (by rw [own]; exact lt), own]

/-- A frame that straddles NextSeq advances it by what of its range is not behind. -/
theorem Classified.behindBy_after_straddle {next : Nat} (lt : f.c < m) (behind : behindBy m f.s next ≠ 0)
    (straddles : m - behindBy m f.s next ≤ f.c) :
    behindBy m (f.after m) next = f.c - (m - behindBy m f.s next) := by
  have own := f.behindBy_after pos lt
  have back := behindBy_swap pos behind
  rw [behindBy_later pos (first := f.s) (by omega), own, back]

end

/-! ### Entries that leave -/

section
variable {s t : State} {ch : ChannelNo} {x : Channel} {next : Nat}

/-- What is left of a channel's entries when some are passed over. -/
theorem passOver_channelEntries (f : Classified) (next newNext : Nat) (s : State) :
    let m := (s.channel f.channel).settings.modulus
    (passOver f next newNext s).channelEntries f.channel = (s.channelEntries f.channel).filter fun e =>
      !decide (m / 2 < behindBy m next e.first + behindBy m newNext next) := by
  intro m
  have flushed := ((s.collection_perm f.channel).filter fun e =>
    decide (m / 2 < behindBy m next e.first + behindBy m newNext next))
  rw [State.channelEntries, List.filter_filter] at flushed
  simp only [State.channelEntries, passOver, flushEntries_entries]
  rw [diff_filter_perm _ _ _ flushed, List.filter_filter, List.filter_filter]
  refine List.filter_congr fun e _ => ?_
  by_cases own : e.channel = f.channel <;> simp [own, m]

/-- A flush of a channel's collection leaves it no entry. -/
theorem flushEntries_collection (frame : Option FrameTag) (s : State) (ch : ChannelNo) :
    (flushEntries frame (s.collection ch) s).channelEntries ch = [] := by
  rw [State.channelEntries, flushEntries_entries, s.diff_collection, List.filter_filter]
  exact List.filter_eq_nil_iff.mpr fun e _ => by simp

/-- When NextSeq advances, the entries not passed over fall back behind it, each leaving room for the advance. -/
theorem State.ApartAt.passOver {f : Classified} (h : s.ApartAt f.channel x next) (newNext : Nat) :
    (passOver f next newNext s).ApartAt f.channel x newNext
      ∧ (passOver f next newNext s).Room f.channel x.settings.modulus newNext
          (behindBy x.settings.modulus newNext next) := by
  have pos := x.settings.modulus_pos
  have left := passOver_channelEntries f next newNext s
  have kept : (Machine.passOver f next newNext s).ApartAt f.channel x next := h.adds_nil (flushEntries_adds ..)
  have fell : ∀ e ∈ (Machine.passOver f next newNext s).channelEntries f.channel,
      behindBy x.settings.modulus newNext e.first
        = behindBy x.settings.modulus next e.first + behindBy x.settings.modulus newNext next := by
    intro e he
    rw [left, h.channel, List.mem_filter] at he
    have near := he.2
    simp only [Bool.not_eq_true', decide_eq_false_iff_not] at near
    exact behindBy_advance pos (by omega)
  refine ⟨⟨kept.channel, h.on, h.sound, kept.tidy.advance fell, kept.others, kept.counts⟩, fun e he => ?_⟩
  obtain ⟨_, behind, _⟩ := kept.tidy.1 e he
  rw [fell e he]
  omega

/-- Without one of its entries, what remains lies apart from it. -/
theorem State.ApartAt.without (h : s.ApartAt ch x next) {e : Entry} (mem : e ∈ s.channelEntries ch) :
    let t : State := { s with entries := s.entries.erase e }
    t.ApartAt ch x next ∧ e ∉ t.entries ∧ ∀ y ∈ t.channelEntries ch, Entry.Apart x.settings.modulus next e y := by
  intro t
  obtain ⟨behinds, aparts⟩ := h.tidy
  obtain ⟨some', _⟩ := behinds e mem
  obtain ⟨held, own⟩ := List.mem_filter.mp mem
  have whole := (List.perm_cons_erase held).filter fun y => decide (y.channel = ch)
  rw [List.filter_cons, if_pos own] at whole
  have apart := (List.pairwise_cons.mp (aparts.perm whole Entry.Apart.symm)).1
  refine ⟨h.adds_nil (State.Adds.erase ..), fun twice => ?_, apart⟩
  have self := apart e (List.mem_filter.mpr ⟨twice, own⟩)
  unfold Entry.Apart at self
  omega

end

/-! ### Entries that are added -/

section
variable {s t : State} {ch : ChannelNo} {x : Channel} {next : Nat}

/-- An entry that lies behind NextSeq and apart from the channel's others is added. -/
theorem State.ApartAt.addEntry (h : s.ApartAt ch x next) {p : Entry} (a : s.Adds t [p]) (own : p.channel = ch)
    (behind : p.Behind x.settings next)
    (apart : ∀ y ∈ s.channelEntries ch, Entry.Apart x.settings.modulus next p y) :
    t.ApartAt ch x next ∧ ∀ y ∈ t.channelEntries ch, y = p ∨ y ∈ s.channelEntries ch := by
  refine ⟨h.adds a (by simpa using own) (h.tidy.cons behind apart), fun y hy => ?_⟩
  have sub := (a.channelEntries ch).subset hy
  rw [List.filter_cons_of_pos (by simpa using own), List.filter_nil] at sub
  simpa using sub

/-- An entry asked for that would lie so: every entry of the channel is then the one asked for, its creation order
aside, or was there. -/
theorem State.ApartAt.requestEntry (h : s.ApartAt ch x next) (frame : FrameTag) {p : Entry}
    (filling : Option (BitVec 32)) (own : p.channel = ch) (behind : p.Behind x.settings next)
    (apart : ∀ y ∈ s.channelEntries ch, Entry.Apart x.settings.modulus next p y) :
    (requestEntry frame p filling s).ApartAt ch x next
      ∧ ∀ y ∈ (requestEntry frame p filling s).channelEntries ch,
          (y.first = p.first ∧ y.count = p.count) ∨ y ∈ s.channelEntries ch := by
  obtain ⟨kept, mem⟩ := h.addEntry (requestEntry_adds ..) own behind apart
  exact ⟨kept, fun y hy => (mem y hy).imp_left fun same => by rw [same]; exact ⟨rfl, rfl⟩⟩

/-- A publication of a range that lies behind NextSeq and apart from every entry. -/
theorem State.ApartAt.publish {f : Classified} (h : s.ApartAt f.channel x next) (flags : ArrivalFlags) {first k : Nat}
    (filling : Option (BitVec 32)) (some' : 1 ≤ k) (few : k ≤ 65535)
    (behind : k ≤ behindBy x.settings.modulus next first)
    (apart : ∀ y ∈ s.channelEntries f.channel, k + behindBy x.settings.modulus next y.first
        ≤ behindBy x.settings.modulus next first
      ∨ y.count + behindBy x.settings.modulus next first ≤ behindBy x.settings.modulus next y.first) :
    (publish f flags first k filling s).ApartAt f.channel x next := by
  have added := publish_adds f flags first k filling s
  rw [h.channel] at added
  by_cases paired : x.settings.mode = .paired
  · rw [if_pos paired] at added
    refine (h.addEntry added rfl ⟨some', behind, fun _ _ => ⟨paired, few⟩, ?_⟩ apart).1
    intro o gap
    cases gap
  · rw [if_neg paired] at added
    exact h.adds_nil added

/-- A publication up to NextSeq, when every entry leaves room for it. -/
theorem State.ApartAt.publishLast {f : Classified} (h : s.ApartAt f.channel x next) (flags : ArrivalFlags)
    {first k : Nat} (some' : 1 ≤ k) (few : k ≤ 65535) (last : behindBy x.settings.modulus next first = k)
    (room : s.Room f.channel x.settings.modulus next k) :
    (Machine.publish f flags first k none s).ApartAt f.channel x next :=
  h.publish flags none some' few (Nat.le_of_eq last.symm) fun y hy => .inr (by rw [last]; exact room y hy)

/-- A part of an entry's range, of the entry's kind. -/
theorem Entry.Behind.part {c : ChannelSettings} {e p : Entry} (h : e.Behind c next) (part : p.PartOf c.modulus next e)
    (kind : p.kind = e.kind) (some' : 1 ≤ p.count) : p.Behind c next := by
  obtain ⟨_, behind, await, gap⟩ := h
  obtain ⟨begins, ends⟩ := part
  refine ⟨some', by omega, fun w hw => ?_, fun o ho => ?_⟩
  · obtain ⟨paired, few⟩ := await w (kind ▸ hw)
    exact ⟨paired, by omega⟩
  · have := gap o (kind ▸ ho)
    omega

/-- An entry changed in place: the pool without it, with the changed one added. -/
theorem replaceEntry_adds {e : Entry} (p : Entry) (held : e ∈ s.entries) (once : e ∉ s.entries.erase e) :
    ({ s with entries := s.entries.erase e } : State).Adds { s with entries := replaceEntry s.entries e p } [p] := by
  refine ⟨rfl, rfl, rfl, List.Perm.subperm ?_⟩
  have rest : (s.entries.erase e).map (fun y => if y = e then p else y) = s.entries.erase e :=
    (List.map_congr_left fun y hy => if_neg (ne_of_mem_of_not_mem hy once)).trans (List.map_id' _)
  have moved := (List.perm_cons_erase held).map fun y => if y = e then p else y
  rwa [List.map_cons, if_pos rfl, rest] at moved

end

/-! ### The cases of a frame -/

/-- Ahead of NextSeq and within the resync limit (R93). -/
theorem le_limit_of_beyondLimit {m limit d : Nat} (within : beyondLimit m limit d = none) (ne : d ≠ 0)
    (ahead : d < m / 2) : d ≤ limit := by
  unfold beyondLimit at within
  rw [if_neg ne, if_pos ahead] at within
  by_contra far
  rw [if_pos (by omega)] at within
  cases within

section
variable {s : State} {f : Classified} {x : Channel} {next : Nat} (few : f.c ≤ 65535)
include few

/-- A gap revealed: its GAP entry ends where the frame begins, which all entries leave room for. -/
theorem State.ApartAt.revealGap {a : Nat} (h : s.ApartAt f.channel x next)
    (ahead : behindBy x.settings.modulus f.s next = a) (gap : 1 ≤ a) (near : a ≤ x.settings.resyncLimit) :
    let t := revealGap f x.settings.modulus next a s
    t.ApartAt f.channel x (f.after x.settings.modulus)
      ∧ t.Room f.channel x.settings.modulus (f.after x.settings.modulus) f.c := by
  have pos := x.settings.modulus_pos
  have large := h.sound.modulus_large
  have limit := h.sound.limit
  have advance := f.behindBy_after_ahead pos (next := next) (by omega)
  rw [ahead] at advance
  obtain ⟨passed, room⟩ := h.passOver (f.after x.settings.modulus)
  rw [advance] at room
  have behind : (f.gapEntry (s.channel f.channel).settings next a).Behind x.settings (f.after x.settings.modulus) :=
    ⟨gap, by simp [advance], fun _ await => (by cases await), fun _ _ => near⟩
  obtain ⟨kept, mem⟩ := passed.requestEntry (f.tag s) none rfl behind fun y hy => .inr (by simpa [advance] using room y hy)
  refine ⟨kept, fun y hy => ?_⟩
  rcases mem y hy with ⟨first, count⟩ | old
  · rw [first, count]
    simp [advance]
  · have roomy := room y old
    omega

/-- A frame or heartbeat that finds its channel without entries sets NextSeq behind its own range (R94, R98). -/
theorem State.ApartAt.takeFirst (h : s.ApartAt f.channel x (f.after x.settings.modulus))
    (empty : s.channelEntries f.channel = []) (beat flags : ArrivalFlags) :
    (Machine.setNext f.channel (some (f.after x.settings.modulus))
      (if f.c = 0 then heartbeatRecord f beat s else Machine.publish f flags f.s f.c none s)).EntriesApart := by
  have pos := x.settings.modulus_pos
  have large := h.sound.modulus_large
  split
  · exact (h.adds_nil (heartbeatRecord_adds ..)).setNext (f.after_lt pos)
  · refine (h.publishLast _ (by omega) few (f.behindBy_after pos (by omega)) ?_).setNext (f.after_lt pos)
    simp [State.Room, empty]

variable (h : s.EntriesApart) (on : (s.channel f.channel).on = true)
include h on

theorem State.EntriesApart.takeStart (unset : (s.channel f.channel).nextSeq = none) :
    (takeStart f (s.channel f.channel).settings.modulus s).EntriesApart := by
  obtain ⟨at', empty⟩ := h.atUnset on unset (f.after (s.channel f.channel).settings.modulus)
  exact at'.takeFirst few empty {} {}

variable (set : (s.channel f.channel).nextSeq = some next)
include set

theorem State.EntriesApart.takeInOrder (some' : f.c ≠ 0)
    (inOrder : behindBy (s.channel f.channel).settings.modulus f.s next = 0) :
    (takeInOrder f (s.channel f.channel).settings.modulus next s).EntriesApart := by
  have pos := (s.channel f.channel).settings.modulus_pos
  obtain ⟨at', _⟩ := h.atSet on set
  have large := at'.sound.modulus_large
  have advance := f.behindBy_after_ahead pos (next := next) (by omega)
  obtain ⟨passed, room⟩ := at'.passOver (f.after (s.channel f.channel).settings.modulus)
  rw [advance, inOrder, Nat.zero_add] at room
  unfold Machine.takeInOrder
  exact (passed.publishLast _ (by omega) few (f.behindBy_after pos (by omega)) room).setNext (f.after_lt pos)

theorem State.EntriesApart.takeAhead (some' : f.c ≠ 0) {a : Nat}
    (ahead : behindBy (s.channel f.channel).settings.modulus f.s next = a) (gap : 1 ≤ a)
    (near : a ≤ (s.channel f.channel).settings.resyncLimit) :
    (takeAhead f (s.channel f.channel).settings.modulus next a s).EntriesApart := by
  have pos := (s.channel f.channel).settings.modulus_pos
  obtain ⟨at', _⟩ := h.atSet on set
  have large := at'.sound.modulus_large
  obtain ⟨revealed, room⟩ := at'.revealGap few ahead gap near
  unfold Machine.takeAhead
  exact (revealed.publishLast _ (by omega) few (f.behindBy_after pos (by omega)) room).setNext (f.after_lt pos)

theorem State.EntriesApart.takeResync (direction : Direction) :
    (takeResync f (s.channel f.channel).settings.modulus next direction s).EntriesApart := by
  obtain ⟨at', _⟩ := h.atSet on set
  have flushed := (at'.adds_nil (flushEntries_adds (some (f.tag s)) (s.collection f.channel) s)).anywhere
    (flushEntries_collection ..) (f.after (s.channel f.channel).settings.modulus)
  have reported (r : Record) := flushed.adds_nil (offerOwn_adds f r _)
  unfold Machine.takeResync
  refine State.EntriesApart.adds ?_ (bump_adds ..)
  exact (reported _).takeFirst few (flushEntries_collection ..) { resync := true } { resync := true }

theorem State.EntriesApart.takeStraddle {b : Nat}
    (behind : behindBy (s.channel f.channel).settings.modulus f.s next ≠ 0)
    (back : (s.channel f.channel).settings.modulus - behindBy (s.channel f.channel).settings.modulus f.s next = b)
    (straddles : b < f.c) : (takeStraddle f (s.channel f.channel).settings.modulus next b s).EntriesApart := by
  have pos := (s.channel f.channel).settings.modulus_pos
  obtain ⟨at', _⟩ := h.atSet on set
  have large := at'.sound.modulus_large
  have advance := f.behindBy_after_straddle pos (next := next) (by omega) behind (by omega)
  obtain ⟨passed, room⟩ := at'.passOver (f.after (s.channel f.channel).settings.modulus)
  rw [back] at advance
  rw [advance] at room
  unfold Machine.takeStraddle
  exact (passed.publishLast _ (by omega) (by omega) advance room).setNext (f.after_lt pos)

theorem State.EntriesApart.takeHeartbeat :
    (takeHeartbeat f (s.channel f.channel).settings.modulus next s).EntriesApart := by
  have pos := (s.channel f.channel).settings.modulus_pos
  obtain ⟨at', _⟩ := h.atSet on set
  unfold Machine.takeHeartbeat
  dsimp only
  split
  · exact h.takeResync few on set _
  · rename_i within
    split
    · exact h.adds (heartbeatRecord_adds ..)
    · split
      · have near := le_limit_of_beyondLimit within (by omega) (by omega)
        obtain ⟨revealed, _⟩ := at'.revealGap few rfl (by omega) near
        exact (revealed.adds_nil (heartbeatRecord_adds ..)).setNext (f.after_lt pos)
      · exact h.adds ((heartbeatRecord_adds ..).then (bump_adds ..))

end

end Sys2Proof.Machine
end

section
/-! SUPPORT. A frame behind NextSeq, and every other command, keep the entries behind NextSeq and apart (R82, R85, R86,
R92 to R105, R117). -/

namespace Sys2Proof.Machine

/-! ### A frame wholly behind NextSeq -/

/-- A fill: the range that the frame publishes and what remains of the gap, on either side, are parts of the GAP
entry's range that lie apart from each other (R101). -/
theorem State.ApartAt.takeFill {s : State} {f : Classified} {x : Channel} {next : Nat}
    (h : s.ApartAt f.channel x next) (some' : f.c ≠ 0) (few : f.c ≤ 65535) {e : Entry}
    (mem : e ∈ s.channelEntries f.channel) (covers : behindBy x.settings.modulus f.s e.first < e.count) :
    (takeFill f e x.settings.modulus s).ApartAt f.channel x next := by
  have pos := x.settings.modulus_pos
  have large := h.sound.modulus_large
  have gap := h.tidy.1 e mem
  have inside := gap.2.1
  obtain ⟨held, own⟩ := List.mem_filter.mp mem
  obtain ⟨rest, once, apart⟩ := h.without mem
  have start := behindBy_later pos (next := next) (first := e.first) (later := f.s) (by omega)
  unfold Machine.takeFill
  dsimp only
  generalize behindBy x.settings.modulus f.s e.first = below at *
  generalize hk : min f.c (e.count - below) = k
  have stop : behindBy x.settings.modulus next ((f.s + k) % x.settings.modulus)
      = behindBy x.settings.modulus next f.s - k := by
    have step := behindBy_add pos f.s (k := k) (by omega)
    rw [behindBy_mod_right pos, behindBy_later pos (first := f.s) (by omega), step]
  have lower : ({ e with count := below } : Entry).PartOf x.settings.modulus next e :=
    ⟨Nat.le_refl _, by dsimp only; omega⟩
  have upper (above : e.count - below - k ≠ 0) :
      ({ e with first := (f.s + k) % x.settings.modulus, count := e.count - below - k } : Entry).PartOf
        x.settings.modulus next e := ⟨by dsimp only; omega, by dsimp only; omega⟩
  have replaced {p : Entry} (part : p.PartOf x.settings.modulus next e) (kind : p.kind = e.kind)
      (ch : p.channel = e.channel) (left : 1 ≤ p.count) :=
    rest.addEntry (replaceEntry_adds p held once) (ch.trans (by simpa using own)) (gap.part part kind left)
      fun y hy => (apart y hy).part part
  have published {t : State} (kept : t.ApartAt f.channel x next) (filling : Option (BitVec 32))
      (clear : ∀ y ∈ t.channelEntries f.channel, Entry.Apart x.settings.modulus next e y
        ∨ k + behindBy x.settings.modulus next y.first ≤ behindBy x.settings.modulus next f.s
        ∨ y.count + behindBy x.settings.modulus next f.s ≤ behindBy x.settings.modulus next y.first) :
      (Machine.publish f { fill := true } f.s k filling t).ApartAt f.channel x next := by
    refine kept.publish _ filling (by omega) (by omega) (by omega) fun y hy => ?_
    rcases clear y hy with outside | inside
    · unfold Entry.Apart at outside
      omega
    · exact inside
  split
  · exact published rest none fun y hy => .inl (apart y hy)
  · split
    · obtain ⟨kept, left⟩ := replaced lower rfl rfl (by dsimp only; omega)
      refine published kept (some e.order) fun y hy => ?_
      rcases left y hy with rfl | old
      · exact .inr (.inr (by dsimp only; omega))
      · exact .inl (apart y old)
    · split
      · obtain ⟨kept, left⟩ := replaced (upper (by omega)) rfl rfl (by dsimp only; omega)
        refine published kept (some e.order) fun y hy => ?_
        rcases left y hy with rfl | old
        · exact .inr (.inl (by dsimp only; omega))
        · exact .inl (apart y old)
      · obtain ⟨kept, left⟩ := replaced lower rfl rfl (by dsimp only; omega)
        obtain ⟨kept, both⟩ := kept.requestEntry (f.tag s) (some e.order) (by simpa using own)
          (gap.part (upper (by omega)) rfl (by dsimp only; omega)) fun y hy => by
            rcases left y hy with rfl | old
            · exact .inr (by dsimp only; omega)
            · exact (apart y old).part (upper (by omega))
        refine published kept (some e.order) fun y hy => ?_
        rcases both y hy with ⟨first, count⟩ | hy
        · rw [first, count]
          exact .inr (.inl (by dsimp only; omega))
        · rcases left y hy with rfl | old
          · exact .inr (.inr (by dsimp only; omega))
          · exact .inl (apart y old)

theorem State.EntriesApart.takeBehind {s : State} {f : Classified} {next : Nat} (h : s.EntriesApart)
    (few : f.c ≤ 65535) (on : (s.channel f.channel).on = true) (set : (s.channel f.channel).nextSeq = some next)
    (some' : f.c ≠ 0) : (takeBehind f (s.channel f.channel).settings.modulus s).EntriesApart := by
  unfold Machine.takeBehind
  split
  · rename_i e found
    have mem : e ∈ s.channelEntries f.channel := List.mem_of_find?_eq_some found
    have covers := List.find?_some found
    rw [decide_eq_true_eq] at covers
    split
    · obtain ⟨at', lt⟩ := h.atSet on set
      exact (at'.takeFill some' few mem covers).stay lt set
    · split
      · exact h.adds ((bump_adds ..).then (rejectFrame_adds ..))
      · exact h.adds (((offerOwn_adds ..).then (State.Adds.erase ..)).then (bump_adds ..))
  · exact h.adds ((bump_adds ..).then (rejectFrame_adds ..))

/-! ### A frame, sorted -/

/-- What the case of a frame says of its count and its distance from NextSeq (R93). -/
inductive Sorted.Fits (c : ChannelSettings) (next : Nat) (f : Classified) : Sorted → Prop
  | heartbeat : Fits c next f .heartbeat
  | inOrder (some' : f.c ≠ 0) (here : behindBy c.modulus f.s next = 0) : Fits c next f .inOrder
  | ahead {a : Nat} (some' : f.c ≠ 0) (ahead : behindBy c.modulus f.s next = a) (gap : 1 ≤ a)
      (near : a ≤ c.resyncLimit) : Fits c next f (.ahead a)
  | resync (direction : Direction) : Fits c next f (.resync direction)
  | straddle {b : Nat} (behind : behindBy c.modulus f.s next ≠ 0)
      (back : c.modulus - behindBy c.modulus f.s next = b) (straddles : b < f.c) : Fits c next f (.straddle b)
  | whollyBehind (b : Nat) (some' : f.c ≠ 0) : Fits c next f (.whollyBehind b)

theorem sortFrame_fits (c : ChannelSettings) (next : Nat) (f : Classified) :
    (sortFrame c (some next) f).Fits c next f := by
  unfold sortFrame
  dsimp only
  split
  · exact .heartbeat
  · split
    · exact .inOrder ‹_› ‹_›
    · split
      · exact .resync _
      · rename_i within
        split
        · exact .ahead ‹_› rfl (by omega) (le_limit_of_beyondLimit within ‹_› ‹_›)
        · split
          · exact .straddle ‹_› rfl ‹_›
          · exact .whollyBehind _ ‹_›

/-- A frame of its channel's present run keeps the invariant, whatever its case. -/
theorem State.EntriesApart.arbitrate {s : State} {f : Classified} (h : s.EntriesApart) (few : f.c ≤ 65535)
    (on : (s.channel f.channel).on = true) : (arbitrate f s).EntriesApart := by
  unfold Machine.arbitrate
  dsimp only
  cases set : (s.channel f.channel).nextSeq with
  | none => exact h.takeStart few on set
  | some next =>
    have fits := sortFrame_fits (s.channel f.channel).settings next f
    generalize sortFrame (s.channel f.channel).settings (some next) f = sorted at fits
    cases fits <;> dsimp only [Option.getD_some]
    case heartbeat => exact h.takeHeartbeat few on set
    case inOrder some' here => exact h.takeInOrder few on set some' here
    case ahead some' ahead gap near => exact h.takeAhead few on set some' ahead gap near
    case resync direction => exact h.takeResync few on set direction
    case straddle behind back straddles => exact h.takeStraddle few on set behind back straddles
    case whollyBehind b some' => exact h.takeBehind few on set some'

/-! ### The Table's commands -/

section
variable {s : State} (h : s.EntriesApart)
include h

/-- A frame leaves its input, or waits no longer, or comes to stand there with its count in range. -/
theorem State.EntriesApart.setInput (k : PortNo) {f : Option Classified} (few : ∀ g ∈ f, g.c ≤ 65535) :
    (s.setInput k f).EntriesApart := by
  obtain ⟨channels, counts⟩ := h
  refine ⟨channels, fun j => ⟨?_, (counts j).2⟩⟩
  by_cases same : k = j
  · subst same; simpa using few
  · rw [State.setInput_inputOf_of_ne _ _ same]; exact (counts j).1

theorem State.EntriesApart.setWaiting (k : PortNo) {f : Option Classified} (few : ∀ g ∈ f, g.c ≤ 65535) :
    (s.setWaiting k f).EntriesApart := by
  obtain ⟨channels, counts⟩ := h
  refine ⟨channels, fun j => ⟨(counts j).1, ?_⟩⟩
  by_cases same : k = j
  · subst same; simpa using few
  · rw [State.setWaiting_waitingOf_of_ne _ _ same]; exact (counts j).2

theorem State.EntriesApart.enterInput {f : Classified} (few : f.c ≤ 65535) : (enterInput f s).EntriesApart :=
  (h.setInput f.port (by simpa using few)).adds (bump_adds ..)

theorem State.EntriesApart.takeClassified {f : Classified} (few : f.c ≤ 65535) : (takeClassified f s).EntriesApart := by
  unfold Machine.takeClassified
  dsimp only
  split
  · exact h.adds (bump_adds ..)
  · rename_i current
    exact h.arbitrate few (by simpa using (not_or.mp current).1)

theorem State.EntriesApart.refillInput (k : PortNo) : (refillInput k s).EntriesApart := by
  unfold Machine.refillInput
  split
  · rename_i f waits
    exact (h.setWaiting k (by simp)).enterInput ((h.2 k).2 f waits)
  · exact h

theorem State.EntriesApart.takeInput (k : PortNo) : (takeInput k s).EntriesApart := by
  unfold Machine.takeInput
  split
  · rename_i f found
    exact ((h.setInput k (by simp)).takeClassified ((h.2 k).1 f found)).refillInput k
  · exact h

theorem State.EntriesApart.takeExpiry : (takeExpiry s).EntriesApart := by
  unfold Machine.takeExpiry
  split
  · split
    · exact h.adds (removeEntry_adds ..)
    · exact h
  · exact h

/-! ### The Classifier's frames -/

end

end Sys2Proof.Machine
end

section
/-! SUPPORT. The requests on the channels, by value: CHANNEL_SET with its stages, CHANNEL_START and CHANNEL_STOP. -/

namespace Sys2Proof.Machine

/-! ### Numbers of channels and lanes -/

@[simp] theorem channelNo?_val (ch : ChannelNo) : channelNo? ch = some ch := dif_pos ch.isLt

theorem channelNo?_none {n : Nat} (h : 256 ≤ n) : channelNo? n = none := dif_neg (by omega)

theorem lt_of_channelNo? {n : Nat} {ch : ChannelNo} (h : channelNo? n = some ch) : n < 256 := by
  by_contra large
  rw [channelNo?_none (by omega)] at h
  cases h

@[simp] theorem laneNo?_val (l : LaneNo) : laneNo? l = some l := dif_pos l.isLt

theorem lt_of_laneNo? {n : Nat} {l : LaneNo} (h : laneNo? n = some l) : n < 4 := by
  by_contra large
  rw [laneNo?, dif_neg large] at h
  cases h

/-! ### The parameters of CHANNEL_SET -/

section
variable {slot : List Byte}

/-- The byte order that a code in range names (R171). -/
def orderOf (code : Nat) : ByteOrder := if code = 0 then .big else .little

theorem byteOrder?_of_le {code : Nat} (h : code ≤ 1) : byteOrder? code = some (orderOf code) := twoValued_of_le _ _ h

/-- The sequence locator, its order and its offset out of range, or its width neither of the two (R83, R173). -/
def sequenceRefused (slot : List Byte) : Prop :=
  (slotField slot 13 1 ≠ 4 ∧ slotField slot 13 1 ≠ 8) ∨ 1 < slotField slot 14 1 ∨ 1023 < slotField slot 20 2

/-- The count locator is there and out of range (R83, R173). -/
def countRefused (slot : List Byte) : Prop :=
  slotField slot 15 1 ≠ 0 ∧ (2 < slotField slot 15 1 ∨ 1 < slotField slot 16 1 ∨ 1023 < slotField slot 22 2)

/-- The marker is too long, stands too far out, or reaches past the pool's end (R83, R173). -/
def markerRefused (slot : List Byte) : Prop :=
  8 < slotField slot 17 1 ∨ 1023 < slotField slot 24 2 ∨ 256 < slotField slot 18 1 + slotField slot 17 1

/-- The count locator that a slot asks for (R173). -/
def slotCount (slot : List Byte) : Option Locator :=
  if slotField slot 15 1 = 0 then none
  else some { offset := slotField slot 22 2, width := slotField slot 15 1, order := orderOf (slotField slot 16 1) }

theorem sequenceLocator?_of_valid (h : ¬sequenceRefused slot) :
    sequenceLocator? slot =
      some { offset := slotField slot 20 2, width := slotField slot 13 1, order := orderOf (slotField slot 14 1) } := by
  simp only [sequenceRefused, not_or] at h
  obtain ⟨width, order, offset⟩ := h
  unfold sequenceLocator?
  rw [byteOrder?_of_le (by omega)]
  exact if_pos ⟨by omega, by omega⟩

theorem valid_of_sequenceLocator? {x : Locator} (h : sequenceLocator? slot = some x) : ¬sequenceRefused slot := by
  simp only [sequenceLocator?] at h
  split at h
  · rename_i fits
    obtain ⟨_, order, _⟩ := Option.map_eq_some_iff.mp h
    have order := le_of_twoValued order
    unfold sequenceRefused
    omega
  · cases h

theorem countLocator?_of_valid (h : ¬countRefused slot) : countLocator? slot = some (slotCount slot) := by
  unfold countLocator? slotCount
  by_cases absent : slotField slot 15 1 = 0
  · simp [absent]
  · simp only [countRefused, absent, ne_eq, not_false_eq_true, true_and, not_or] at h
    obtain ⟨width, order, offset⟩ := h
    simp only [if_neg absent]
    rw [byteOrder?_of_le (by omega)]
    exact if_pos ⟨by omega, by omega⟩

theorem valid_of_countLocator? {x : Option Locator} (h : countLocator? slot = some x) : ¬countRefused slot := by
  simp only [countLocator?] at h
  split at h
  · exact fun refused => refused.1 ‹_›
  · split at h
    · obtain ⟨_, order, _⟩ := Option.map_eq_some_iff.mp h
      have order := le_of_twoValued order
      unfold countRefused
      omega
    · cases h

theorem marker?_of_valid (h : ¬markerRefused slot) :
    marker? slot =
      some { index := slotField slot 18 1, length := slotField slot 17 1, offset := slotField slot 24 2 } := by
  simp only [markerRefused, not_or] at h
  exact if_pos (by dsimp only; omega)

theorem valid_of_marker? {m : Marker} (h : marker? slot = some m) : ¬markerRefused slot := by
  simp only [marker?] at h
  split at h
  · unfold markerRefused; omega
  · cases h

/-- A structural parameter of CHANNEL_SET is out of its range (R83, R173). -/
def channelRefused (slot : List Byte) : Prop :=
  1 < slotField slot 10 1 ∨ 3 < slotField slot 11 1 ∨ 1 < slotField slot 12 1 ∨ sequenceRefused slot
    ∨ countRefused slot ∨ markerRefused slot

/-- The settings that a slot asks for, on a lane (R173). -/
def slotChannelSettings (slot : List Byte) (lane : LaneNo) : ChannelSettings :=
  { mode := if slotField slot 10 1 = 0 then .paired else .single, lane := lane, snap := slotField slot 26 2
    sequence := { offset := slotField slot 20 2, width := slotField slot 13 1, order := orderOf (slotField slot 14 1) }
    msgCount := slotCount slot
    marker := { index := slotField slot 18 1, length := slotField slot 17 1, offset := slotField slot 24 2 }
    partnerWindow := slotField slot 28 2, gapWindow := slotField slot 30 2, resyncLimit := slotField slot 32 8
    entryCap := slotField slot 40 2, reject := if slotField slot 12 1 = 0 then .drop else .capture }

theorem channelParams_of_valid {lane : LaneNo} (hl : slotField slot 11 1 = lane) (h : ¬channelRefused slot) :
    channelParams slot = some (slotChannelSettings slot lane) := by
  simp only [channelRefused, not_or] at h
  obtain ⟨mode, _, reject, sequence, count, marker⟩ := h
  simp only [channelParams, hl, laneNo?_val, twoValued_of_le _ _ (Nat.le_of_not_lt mode),
    twoValued_of_le _ _ (Nat.le_of_not_lt reject), sequenceLocator?_of_valid sequence, countLocator?_of_valid count,
    marker?_of_valid marker, Option.bind_eq_bind, Option.bind_some, slotChannelSettings]

/-- The settings given are within their structural ranges, and as the slot asks. -/
theorem valid_of_channelParams {given : ChannelSettings} (h : channelParams slot = some given) :
    ¬channelRefused slot ∧ given = slotChannelSettings slot given.lane := by
  have params := h
  simp only [channelParams, Option.bind_eq_bind, Option.bind_eq_some_iff] at h
  obtain ⟨_, mode, lane, hl, _, reject, _, sequence, _, count, _, marker, made⟩ := h
  obtain rfl := Option.some.inj made
  have high := lt_of_laneNo? hl
  have valid : ¬channelRefused slot := by
    simp only [channelRefused, not_or]
    exact ⟨Nat.not_lt.mpr (le_of_twoValued mode), by omega, Nat.not_lt.mpr (le_of_twoValued reject),
      valid_of_sequenceLocator? sequence, valid_of_countLocator? count, valid_of_marker? marker⟩
  have same : slotField slot 11 1 = lane := by
    rw [laneNo?, dif_pos high] at hl
    exact congrArg Fin.val (Option.some.inj hl)
  exact ⟨valid, Option.some.inj (params.symm.trans (channelParams_of_valid same valid))⟩

theorem channelParams_of_refused (h : channelRefused slot) : channelParams slot = none := by
  by_contra taken
  obtain ⟨given, hg⟩ := Option.ne_none_iff_exists'.mp taken
  exact (valid_of_channelParams hg).1 h

/-- The settings that CHANNEL_SET applies are sound (R84). -/
theorem applied_sound {given : ChannelSettings} (h : channelParams slot = some given) : given.applied.Sound := by
  obtain ⟨valid, eq⟩ := valid_of_channelParams h
  simp only [channelRefused, sequenceRefused, countRefused, not_or] at valid
  obtain ⟨_, _, _, ⟨width, _⟩, count, _⟩ := valid
  rw [eq]
  refine ⟨?_, fun x hx => ?_, ?_⟩
  · show slotField slot 13 1 = 4 ∨ slotField slot 13 1 = 8
    omega
  · have hx : slotCount slot = some x := hx
    unfold slotCount at hx
    split at hx
    · cases hx
    · cases hx
      show slotField slot 15 1 ≤ 2
      omega
  · show clampNat 1 (_ / 2 - 1) _ < _ / 2
    have width' : slotField slot 13 1 = 4 ∨ slotField slot 13 1 = 8 := by omega
    have large : 4294967296 ≤ (slotChannelSettings slot given.lane).modulus := by
      rcases width' with e | e <;> simp [ChannelSettings.modulus, slotChannelSettings, e]
    have same : (slotChannelSettings slot given.lane).applied.modulus
      = (slotChannelSettings slot given.lane).modulus := rfl
    unfold clampNat
    omega

end

/-! ### The requests carried out -/

section
variable {s : State} {slot : List Byte} {ch : ChannelNo}

/-- The bytes of CHANNEL_SET's result (R173). -/
theorem resultOf_channelSet (snap partner gap cap limit : Nat) :
    resultOf [(48, leBytes 2 snap), (50, leBytes 2 partner), (52, leBytes 2 gap), (54, leBytes 2 cap),
        (56, leBytes 8 limit)]
      = leBytes 2 snap ++ leBytes 2 partner ++ leBytes 2 gap ++ leBytes 2 cap ++ leBytes 8 limit := by
  rw [resultOf_eq _ (by simp [Ordered])]
  simp [filled]

theorem execChannelSet_no_channel (h : s.Holds 0x23 slot) (r : 256 ≤ slotField slot 8 2) :
    exec .channelSet s = .next (s.returns .badParam (zeros 16)) := by
  refine congrArg Host.Outcome.next ((h.carryOut carryChannelSet).trans ?_)
  unfold carryChannelSet
  rw [channelNo?_none r]
  exact s.begun_answerWith .badParam [] h.busy

theorem execChannelSet_busy (h : s.Holds 0x23 slot) (hc : slotField slot 8 2 = ch) (on : (s.channel ch).on = true) :
    exec .channelSet s = .next (s.returns .busy (zeros 16)) := by
  refine congrArg Host.Outcome.next ((h.carryOut carryChannelSet).trans ?_)
  unfold carryChannelSet
  rw [hc, channelNo?_val]
  exact (if_pos on).trans (s.begun_answerWith .busy [] h.busy)

theorem execChannelSet_refused (h : s.Holds 0x23 slot) (hc : slotField slot 8 2 = ch)
    (off : (s.channel ch).on = false) (r : channelRefused slot) :
    exec .channelSet s = .next (s.returns .badParam (zeros 16)) := by
  refine congrArg Host.Outcome.next ((h.carryOut carryChannelSet).trans ?_)
  unfold carryChannelSet
  rw [hc, channelNo?_val, channelParams_of_refused r]
  exact (if_neg (Bool.eq_false_iff.mp off)).trans (s.begun_answerWith .badParam [] h.busy)

theorem execChannelSet_taken (h : s.Holds 0x23 slot) (hc : slotField slot 8 2 = ch) (off : (s.channel ch).on = false)
    {lane : LaneNo} (hl : slotField slot 11 1 = lane) (valid : ¬channelRefused slot) :
    let g := slotChannelSettings slot lane
    exec .channelSet s =
      .next ((s.setChannel ch { s.channel ch with settings := g.applied }).returns
        (if g.applied = g then .ok else .adjusted)
        (leBytes 2 g.applied.snap ++ leBytes 2 g.applied.partnerWindow ++ leBytes 2 g.applied.gapWindow
          ++ leBytes 2 g.applied.entryCap ++ leBytes 8 g.applied.resyncLimit)) := by
  refine congrArg Host.Outcome.next ((h.carryOut carryChannelSet).trans ?_)
  unfold carryChannelSet
  rw [hc, channelNo?_val, channelParams_of_valid hl valid]
  dsimp only
  refine (if_neg (Bool.eq_false_iff.mp off)).trans ?_
  rw [← resultOf_channelSet]
  exact State.begun_answerWith (s.setChannel ch _) _ _ h.busy

end

/-- Settles O32: the stages of CHANNEL_SET in their order. -/
theorem channelSetTakesItsSettings : Obligations.ChannelSetTakesItsSettings := by
  intro slot s held number order refused
  have ranges : refused ↔ channelRefused slot := by
    simp only [refused, number, channelRefused, sequenceRefused, countRefused, markerRefused, or_assoc]
    rfl
  refine ⟨execChannelSet_no_channel held, fun ch hc => ⟨execChannelSet_busy held hc, fun off r => ?_,
    fun lane off valid hl => ?_⟩⟩
  · exact execChannelSet_refused held hc off (ranges.mp r)
  · exact execChannelSet_taken held hc off hl fun r => valid (ranges.mpr r)

end Sys2Proof.Machine
end

section
/-! SUPPORT. The Classifier's frames and the requests on the channels keep the entries behind NextSeq and apart; so does
every command (R80, R84 to R86, R89 to R91). -/

namespace Sys2Proof.Machine

/-! ### Numbers read from a payload -/

theorem length_field? {bs field : List Byte} {offset length : Nat} (h : field? bs offset length = some field) :
    field.length ≤ length := by
  unfold field? at h
  split at h
  · cases h; exact length_fieldAt_le ..
  · cases h

/-- A locator reads a number below the range of its width (R80). -/
theorem Locator.read_lt {x : Locator} {payload : List Byte} {n : Nat} (h : x.read payload = some n) :
    n < 256 ^ x.width := by
  obtain ⟨bs, found, hn⟩ := Option.map_eq_some_iff.mp h
  have short := length_field? found
  have bound (cs : List Byte) (hl : cs.length ≤ x.width) : leNat cs < 256 ^ x.width :=
    Nat.lt_of_lt_of_le (leNat_lt cs) (Nat.pow_le_pow_right (by decide) hl)
  cases order : x.order <;> simp only [order] at hn <;> subst hn
  · exact bound bs.reverse (by simpa using short)
  · exact bound bs short

/-- A frame of a channel counts at most 65,535 messages (R80, R84). -/
theorem extract_count_le {c : ChannelSettings} (sound : c.Sound) {payload : List Byte} {q n : Nat}
    (h : extract c payload = some (q, n)) : n ≤ 65535 := by
  obtain ⟨_, width, _⟩ := sound
  cases located : c.msgCount with
  | none =>
    simp only [extract, located, Option.bind_eq_bind, Option.bind_some, Option.bind_eq_some_iff, Option.some.injEq,
      Prod.mk.injEq] at h
    obtain ⟨_, _, _, rfl⟩ := h
    omega
  | some x =>
    simp only [extract, located, Option.bind_eq_bind, Option.bind_eq_some_iff, Option.some.injEq, Prod.mk.injEq] at h
    obtain ⟨_, _, m, count, _, rfl⟩ := h
    have narrow := Nat.pow_le_pow_right (show 0 < 256 by decide) (width x located)
    have := Locator.read_lt count
    omega

section
variable {s : State}

/-- A classified frame carries the count that its channel's locators read. -/
theorem verdictOf_classified {f : Frame} {entry : MapEntry} {q n : Nat} (h : verdictOf s f = .classified entry q n) :
    ∃ payload, extract (s.channel entry.channel).settings payload = some (q, n) := by
  unfold verdictOf at h
  split at h
  · cases h
  · split at h
    · cases h
    · split at h
      · simp only [verdictOn] at h
        split at h
        · cases h
        · split at h
          · cases h
          · cases h
            exact ⟨_, ‹_›⟩
      · cases h

theorem State.SameTable.adds {t : State} (h : s.SameTable t) : s.Adds t [] := by
  obtain ⟨channels, entries, _, input, waiting⟩ := h
  exact ⟨channels, input, waiting, by rw [entries]; exact .refl _⟩

variable (h : s.EntriesApart)
include h

theorem State.EntriesApart.handToTable {f : Classified} (few : f.c ≤ 65535) : (handToTable f s).EntriesApart := by
  unfold Machine.handToTable
  split
  · exact h.setWaiting f.port (by simpa using few)
  · exact h.enterInput few

theorem State.EntriesApart.classify (f : Frame) : (classify f s).EntriesApart := by
  unfold Machine.classify
  split
  · exact h.adds (setAsideUnmapped_sameTable ..).adds
  · exact h.adds (setAsideForeign_sameTable ..).adds
  · rename_i entry q n classified
    obtain ⟨payload, counted⟩ := verdictOf_classified classified
    obtain ⟨sound, _⟩ := h.1 entry.channel
    exact h.handToTable (extract_count_le sound counted)

theorem State.EntriesApart.classifyHead (k : PortNo) : (classifyHead k s).EntriesApart := by
  unfold Machine.classifyHead
  dsimp only
  split
  · exact State.EntriesApart.classify (s := s.setPort k _) h _
  · exact h
  · exact h

/-! ### The requests on the channels -/

/-- A channel without entries, its NextSeq unset, with sound settings. -/
theorem State.EntriesApart.setChannel {ch : ChannelNo} (empty : s.channelEntries ch = []) {x : Channel}
    (sound : x.settings.Sound) (unset : x.nextSeq = none) : (s.setChannel ch x).EntriesApart := by
  obtain ⟨channels, counts⟩ := h
  refine ⟨fun j => ?_, counts⟩
  by_cases same : ch = j
  · subst same
    refine ⟨?_, ?_, ?_, ?_⟩ <;> rw [State.setChannel_channel_self]
    · exact sound
    · exact fun _ => unset
    · exact fun _ => empty
    · simp [unset]
  · exact (channels j).fewer (State.setChannel_channel_of_ne s _ same) (.refl _)

/-- An OFF channel holds no entry. -/
theorem State.EntriesApart.empty_of_off {ch : ChannelNo} (off : (s.channel ch).on = false) :
    s.channelEntries ch = [] ∧ (s.channel ch).nextSeq = none := by
  obtain ⟨_, unset, empty, _⟩ := h.1 ch
  exact ⟨empty (unset off), unset off⟩

theorem State.EntriesApart.answerWith (o : ReqOutcome) (fs : List (Nat × List Byte)) :
    (s.answerWith o fs).EntriesApart := h.adds ⟨rfl, rfl, rfl, .refl _⟩

theorem State.EntriesApart.carryChannelSet (slot : List Byte) : (carryChannelSet slot s).EntriesApart := by
  unfold Machine.carryChannelSet
  split
  · exact h.answerWith ..
  · split
    · exact h.answerWith ..
    · rename_i off
      obtain ⟨empty, unset⟩ := h.empty_of_off (by simpa using off)
      split
      · exact h.answerWith ..
      · refine (h.setChannel empty ?_ ?_).answerWith ..
        · exact applied_sound ‹_›
        · exact unset

theorem State.EntriesApart.carryChannelStart (slot : List Byte) : (carryChannelStart slot s).EntriesApart := by
  unfold Machine.carryChannelStart
  split
  · exact h.answerWith ..
  · rename_i ch _
    dsimp only
    split
    · exact h.answerWith ..
    · rename_i off
      obtain ⟨empty, _⟩ := h.empty_of_off (by simpa using off)
      obtain ⟨sound, _⟩ := h.1 ch
      refine (h.setChannel empty ?_ rfl).answerWith ..
      exact sound

theorem State.EntriesApart.stopChannel (ch : ChannelNo) : (stopChannel ch s).EntriesApart := by
  have flushed := h.adds (flushEntries_adds none (s.collection ch) s)
  obtain ⟨sound, _⟩ := flushed.1 ch
  exact flushed.setChannel (flushEntries_collection ..) sound rfl

theorem State.EntriesApart.carryChannelStop (slot : List Byte) : (carryChannelStop slot s).EntriesApart := by
  unfold Machine.carryChannelStop
  split
  · exact h.answerWith ..
  · split
    · exact (h.stopChannel _).answerWith ..
    · exact h.answerWith ..

/-! ### Every command -/

theorem State.EntriesApart.tableStep {t : State} {c : Instr} (step : TableStep s c t) : t.EntriesApart := by
  have begun : s.begun.EntriesApart := h
  cases step with
  | same _ g => exact h.adds g.adds
  | reset _ g => exact State.entriesApart_reset.adds g.adds
  | classify k => exact h.classifyHead k
  | takeInput k => exact h.takeInput k
  | takeExpiry => exact h.takeExpiry
  | channelSet slot => exact begun.carryChannelSet slot
  | channelStart slot => exact begun.carryChannelStart slot
  | channelStop slot => exact begun.carryChannelStop slot

end

/-- Settles O55: what a command can do to the channels, the pool and the inputs, and that each of it keeps the
invariant. -/
theorem stepKeepsEntriesBehindAndApart : Obligations.StepKeepsEntriesBehindAndApart := by
  intro s t h e
  rcases step_next_cases e with rfl | ⟨c, rest, _, he⟩
  · exact h
  · exact State.EntriesApart.tableStep (s := { s with pending := rest }) h (exec_tableStep c he)

end Sys2Proof.Machine
end

section
/-! SUPPORT. Entries that are asked for, leave and are flushed, by value, and the requests that begin and end a run
(R85, R86, R90, R91, R115 to R127). -/

namespace Sys2Proof.Machine

/-! ### A flush -/

/-- The counters after a flush: each gains as many as the entries that are counted in it (R127). -/
theorem flushEntries_get (frame : Option FrameTag) (es : List Entry) (s : State) (c : Counter) :
    (flushEntries frame es s).counters.get c =
      s.counters.get c + BitVec.ofNat 64 (es.countP fun e => decide (e.lossCounter = c)) := by
  induction es generalizing s with
  | nil => simp [flushEntries]
  | cons e es ih =>
    have step : flushEntries frame (e :: es) s = flushEntries frame es (removeEntry e .flushed frame s) := rfl
    rw [step, ih, List.countP_cons, removeEntry_eq]
    by_cases same : e.lossCounter = c
    · subst same
      rw [State.bump, State.bumpBy_get_self]
      simp only [decide_true, if_true, Nat.add_comm _ 1, BitVec.ofNat_add, BitVec.add_assoc]
      rfl
    · rw [State.bump_get_of_ne _ same]
      simp [same]

/-- A flushed entry's offer, on its channel's lane. -/
theorem State.flushOffer_of_channel (s : State) (frame : Option FrameTag) {e : Entry} {ch : ChannelNo}
    (own : e.channel = ch) :
    s.flushOffer frame e =
      { lane := (s.channel ch).settings.lane, source := .table ch frame
        record := e.leaving (s.channel ch).settings s.count .flushed } := by
  subst own; rfl

/-! ### The order of a collection -/

/-- Farthest behind NextSeq first (R91). -/
abbrev FarthestFirst (m next : Nat) (es : List Entry) : Prop :=
  es.Pairwise fun a b => behindBy m next b.first ≤ behindBy m next a.first

theorem FarthestFirst.insert {m next : Nat} {es : List Entry} (h : FarthestFirst m next es) (e : Entry) :
    FarthestFirst m next (insertFarthest m next e es) := by
  induction es with
  | nil => exact List.pairwise_singleton ..
  | cons y ys ih =>
    obtain ⟨first, rest⟩ := List.pairwise_cons.mp h
    unfold insertFarthest
    split
    · refine List.pairwise_cons.mpr ⟨fun a ha => ?_, h⟩
      rcases List.mem_cons.mp ha with rfl | ha
      · omega
      · have := first a ha
        omega
    · refine List.pairwise_cons.mpr ⟨fun a ha => ?_, ih rest⟩
      rcases (mem_insertFarthest ..).mp ha with rfl | ha
      · omega
      · exact first a ha

theorem farthestFirst_sorted (m next : Nat) (es : List Entry) : FarthestFirst m next (farthestFirst m next es) := by
  induction es with
  | nil => exact .nil
  | cons e es ih => exact ih.insert e

/-! ### The entry that an eviction chooses -/

/-- The candidate among some entries is the first of them in queue order that is not being filled (R122). -/
theorem State.candidate_eq (s : State) (filling : Option (BitVec 32)) (among : Entry → Bool) :
    s.candidate filling among =
      ((s.entries.filter among).filter fun v => decide (some v.order ≠ filling)).head? := by
  rw [List.head?_filter, List.find?_filter, State.candidate]
  congr 1
  funext v
  simp

/-- Settles O20: the four outcomes of a request, the record that an entry leaves as, a flush, and a channel's
collection. -/
theorem entriesAreObtainedAndLeave : Obligations.EntriesAreObtainedAndLeave := by
  refine ⟨fun frame e filling s => ?request, fun e c now why => ?leaving, fun frame es s => ?flush,
    fun ch s => ⟨s.collection_perm ch, farthestFirst_sorted ..⟩, fun m next first _ hn => ?distance, fun _ => rfl,
    fun _ => rfl, fun _ _ => rfl⟩
  case request =>
    dsimp only
    have own := s.candidate_eq filling fun v => decide (v.channel = e.channel)
    have any := s.candidate_eq filling fun _ => true
    rw [List.filter_true] at any
    refine ⟨requestEntry_room frame e filling s, fun v cap found => ?_, fun cap none' => ?_, fun v room full found => ?_,
      insertEntry_perm ..⟩
    · rw [requestEntry_cap frame e filling s cap, own, found]; rfl
    · rw [requestEntry_cap frame e filling s cap, own, none']; rfl
    · rw [requestEntry_full frame e filling s room full, any, found]; rfl
  case leaving =>
    unfold Entry.lossCounter Entry.leaving Entry.origin
    refine ⟨fun w kind => ?_, fun o kind => ?_⟩ <;> rw [kind] <;> exact ⟨rfl, rfl⟩
  case flush => exact ⟨_, flushEntries_eq frame es s, flushEntries_get frame es s⟩
  case distance =>
    have pos := Nat.zero_lt_of_lt hn
    exact ⟨behindBy_lt m next first pos, Eq.trans (add_behindBy pos next first) (Nat.mod_eq_of_lt hn)⟩

end Sys2Proof.Machine
end

section
/-! SUPPORT. The begin and the end of a channel's run, by value, and a frame of a run that has ended (R82, R85, R86, R92). -/

namespace Sys2Proof.Machine

/-! ### A channel is stopped -/

/-- A stop: the channel OFF with NextSeq unset, its entries gone, their records offered in the order of R91. -/
theorem stopChannel_eq (ch : ChannelNo) (s : State) :
    stopChannel ch s =
      { s.setChannel ch { s.channel ch with on := false, nextSeq := none } with
        entries := s.entries.filter fun e => e.channel ≠ ch
        offers := s.offers ++ (s.collection ch).map fun e =>
          { lane := (s.channel ch).settings.lane, source := .table ch none
            record := e.leaving (s.channel ch).settings s.count .flushed }
        counters := (flushEntries none (s.collection ch) s).counters } := by
  have offers : (s.collection ch).map (s.flushOffer none) = (s.collection ch).map fun e =>
      { lane := (s.channel ch).settings.lane, source := .table ch none
        record := e.leaving (s.channel ch).settings s.count .flushed } :=
    List.map_congr_left fun e he => s.flushOffer_of_channel none
      (by simpa using (List.mem_filter.mp ((s.mem_collection ch e).mp he)).2)
  have entries : s.entries.diff (s.collection ch) = s.entries.filter fun e => e.channel ≠ ch := by
    rw [s.diff_collection]
    simp
  unfold stopChannel
  dsimp only
  rw [flushEntries_eq, offers, entries]
  rfl

/-- A flush, and a stop, while an owner carries out a request. -/
theorem flushEntries_begun (frame : Option FrameTag) (es : List Entry) (s : State) :
    flushEntries frame es s.begun = (flushEntries frame es s).begun := by
  induction es generalizing s with
  | nil => rfl
  | cons e es ih => exact ih (removeEntry e .flushed frame s)

theorem stopChannel_begun (ch : ChannelNo) (s : State) : stopChannel ch s.begun = (stopChannel ch s).begun := by
  have flushed := flushEntries_begun none (s.collection ch) s
  unfold stopChannel
  dsimp only
  rw [show s.begun.collection ch = s.collection ch from rfl, flushed]
  rfl

/-- An AWAIT entry, not a GAP entry (R90). -/
def Entry.isAwait (e : Entry) : Bool :=
  match e.kind with
  | .await _ => true
  | .gap _ => false

theorem Entry.lossCounter_eq (e : Entry) :
    e.lossCounter = .expiry e.channel (if e.isAwait then .lineMisses else .gaps) := by
  unfold Entry.lossCounter Entry.isAwait
  cases e.kind <;> rfl

/-- What the counters of a channel gain when its collection is flushed: a line miss for each AWAIT entry, a gap for
each GAP entry, and nothing else (R127). -/
theorem flushCollection_get (frame : Option FrameTag) (ch : ChannelNo) (s : State) :
    let counters := (flushEntries frame (s.collection ch) s).counters
    counters.get (.expiry ch .lineMisses) =
        s.counters.get (.expiry ch .lineMisses) + BitVec.ofNat 64 ((s.collection ch).countP Entry.isAwait)
      ∧ counters.get (.expiry ch .gaps) =
        s.counters.get (.expiry ch .gaps) + BitVec.ofNat 64 ((s.collection ch).countP fun e => !e.isAwait)
      ∧ ∀ c : Counter, c ≠ .expiry ch .lineMisses → c ≠ .expiry ch .gaps → counters.get c = s.counters.get c := by
  have own : ∀ e ∈ s.collection ch, e.lossCounter = .expiry ch (if e.isAwait then .lineMisses else .gaps) := by
    intro e he
    have own : e.channel = ch := by simpa using (List.mem_filter.mp ((s.mem_collection ch e).mp he)).2
    rw [e.lossCounter_eq, own]
  refine ⟨?_, ?_, fun c misses gaps => flushEntries_get_of_ne _ _ _ _ fun e he => ?_⟩
  · rw [flushEntries_get, List.countP_congr (p := fun e => decide _) (q := Entry.isAwait)]
    intro e he
    rw [own e he]
    cases e.isAwait <;> simp
  · rw [flushEntries_get, List.countP_congr (p := fun e => decide _) (q := fun e => !e.isAwait)]
    intro e he
    rw [own e he]
    cases e.isAwait <;> simp
  · rw [own e he]
    cases e.isAwait
    · exact gaps.symm
    · exact misses.symm

/-! ### The requests carried out -/

section
variable {s : State} {slot : List Byte} {ch : ChannelNo}

/-- The bytes of CHANNEL_START's and CHANNEL_STOP's results (R173). -/
theorem resultOf_channelStart (run : Nat) : resultOf [(48, leBytes 4 run)] = leBytes 4 run ++ zeros 12 := by
  rw [resultOf_eq _ (by simp [Ordered])]
  simp [filled]
theorem resultOf_channelStop (flushed : Nat) : resultOf [(48, leBytes 2 flushed)] = leBytes 2 flushed ++ zeros 14 := by
  rw [resultOf_eq _ (by simp [Ordered])]
  simp [filled]

theorem execChannelStart_no_channel (h : s.Holds 0x24 slot) (r : 256 ≤ slotField slot 8 2) :
    exec .channelStart s = .next (s.returns .badParam (zeros 16)) := by
  refine congrArg Host.Outcome.next ((h.carryOut carryChannelStart).trans ?_)
  unfold carryChannelStart
  rw [channelNo?_none r]
  exact s.begun_answerWith .badParam [] h.busy

theorem execChannelStart_on (h : s.Holds 0x24 slot) (hc : slotField slot 8 2 = ch) (on : (s.channel ch).on = true) :
    exec .channelStart s = .next (s.returns .busy (zeros 16)) := by
  refine congrArg Host.Outcome.next ((h.carryOut carryChannelStart).trans ?_)
  unfold carryChannelStart
  rw [hc, channelNo?_val]
  exact (if_pos on).trans (s.begun_answerWith .busy [] h.busy)

theorem execChannelStart_off (h : s.Holds 0x24 slot) (hc : slotField slot 8 2 = ch) (off : (s.channel ch).on = false) :
    let x := s.channel ch
    exec .channelStart s = .next ((s.setChannel ch { x with on := true, run := x.run + 1, nextSeq := none }).returns .ok
      (leBytes 4 (x.run + 1).toNat ++ zeros 12)) := by
  refine congrArg Host.Outcome.next ((h.carryOut carryChannelStart).trans ?_)
  unfold carryChannelStart
  rw [hc, channelNo?_val, ← resultOf_channelStart]
  exact (if_neg (Bool.eq_false_iff.mp off)).trans (State.begun_answerWith (s.setChannel ch _) _ _ h.busy)

theorem execChannelStop_no_channel (h : s.Holds 0x25 slot) (r : 256 ≤ slotField slot 8 2) :
    exec .channelStop s = .next (s.returns .badParam (zeros 16)) := by
  refine congrArg Host.Outcome.next ((h.carryOut carryChannelStop).trans ?_)
  unfold carryChannelStop
  rw [channelNo?_none r]
  exact s.begun_answerWith .badParam [] h.busy

theorem execChannelStop_off (h : s.Holds 0x25 slot) (hc : slotField slot 8 2 = ch) (off : (s.channel ch).on = false) :
    exec .channelStop s = .next (s.returns .ok (zeros 16)) := by
  refine congrArg Host.Outcome.next ((h.carryOut carryChannelStop).trans ?_)
  unfold carryChannelStop
  rw [hc, channelNo?_val]
  exact (if_neg (Bool.eq_false_iff.mp off)).trans (s.begun_answerWith .ok _ h.busy)

theorem execChannelStop_on (h : s.Holds 0x25 slot) (hc : slotField slot 8 2 = ch) (on : (s.channel ch).on = true) :
    exec .channelStop s =
      .next ((stopChannel ch s).returns .ok (leBytes 2 (s.collection ch).length ++ zeros 14)) := by
  refine congrArg Host.Outcome.next ((h.carryOut carryChannelStop).trans ?_)
  have busy : (stopChannel ch s).engine.state = .busy := by
    rw [((State.TableOnly.refl s).stopChannel ch).engine]
    exact h.1
  unfold carryChannelStop
  rw [hc, channelNo?_val, s.length_collection, ← resultOf_channelStop]
  refine (if_pos on).trans ?_
  rw [stopChannel_begun]
  exact State.begun_answerWith (stopChannel ch s) _ _ busy

end

/-- Settles O33: both requests by the channel's number and its ON state. -/
theorem channelStartsAndStops : Obligations.ChannelStartsAndStops := by
  refine ⟨fun slot s held => ⟨execChannelStart_no_channel held,
      fun ch hc => ⟨execChannelStart_on held hc, execChannelStart_off held hc⟩⟩,
    fun slot s held => ⟨execChannelStop_no_channel held,
      fun ch hc => ⟨execChannelStop_off held hc, fun on => ?stop⟩⟩⟩
  case stop =>
    refine ⟨_, ?_, flushCollection_get none ch s⟩
    rw [execChannelStop_on held hc on, stopChannel_eq]

/-- Settles O15: what stands in the port's input, whether its run goes on, and what waits behind it. -/
theorem frameOfAnEndedRunIsDiscarded : Obligations.FrameOfAnEndedRunIsDiscarded := by
  intro k s
  refine ⟨fun none' => ?_, fun f found ended => ?_, fun none' => ?_, fun w waits => ?_⟩
  · show Host.Outcome.next (takeInput k s) = _
    rw [takeInput, none']
  · show Host.Outcome.next (takeInput k s) = _
    rw [takeInput, found]
    dsimp only
    rw [takeClassified_ended f (s.setInput k none) ended]
  · rw [refillInput, none']
  · rw [refillInput, waits]
    rfl

end Sys2Proof.Machine
end

section
/-! SUPPORT. The requests on the address maps and the pattern pool, by value: MAP_ADD, MAP_REMOVE and PATTERN_LOAD (R71, R74
to R77). -/

namespace Sys2Proof.Machine

/-! ### Lowest numbers -/

/-- A search of a list in rising order finds the lowest of its members that meet a test. -/
theorem find?_sorted_iff {n : Nat} {l : List (Fin n)} (sorted : l.Pairwise (· < ·)) (p : Fin n → Bool) (i : Fin n) :
    l.find? p = some i ↔ (i ∈ l ∧ p i = true) ∧ ∀ j ∈ l, j < i → p j = false := by
  induction l with
  | nil => simp
  | cons x xs ih =>
    obtain ⟨above, sorted⟩ := List.pairwise_cons.mp sorted
    by_cases hx : p x = true
    · rw [List.find?_cons_of_pos hx, Option.some.injEq]
      constructor
      · rintro rfl
        refine ⟨⟨List.mem_cons_self, hx⟩, fun j hj lt => ?_⟩
        rcases List.mem_cons.mp hj with rfl | hj
        · exact absurd lt (lt_irrefl _)
        · exact absurd (above j hj) (lt_asymm lt)
      · rintro ⟨⟨mem, _⟩, lowest⟩
        rcases List.mem_cons.mp mem with rfl | mem
        · rfl
        · rw [lowest x List.mem_cons_self (above i mem)] at hx
          cases hx
    · rw [List.find?_cons_of_neg hx, ih sorted]
      constructor
      · rintro ⟨⟨mem, hi⟩, lowest⟩
        refine ⟨⟨List.mem_cons_of_mem _ mem, hi⟩, fun j hj lt => ?_⟩
        rcases List.mem_cons.mp hj with rfl | hj
        · simpa using hx
        · exact lowest j hj lt
      · rintro ⟨⟨mem, hi⟩, lowest⟩
        rcases List.mem_cons.mp mem with rfl | mem
        · exact absurd hi hx
        · exact ⟨⟨mem, hi⟩, fun j hj lt => lowest j (List.mem_cons_of_mem _ hj) lt⟩

theorem firstPort_portSet {bits : Nat} {test : PortNo → Bool} {k : PortNo} (mem : k ∈ portSet bits)
    (meets : test k = true) (lowest : ∀ j ∈ portSet bits, j < k → test j = false) :
    firstPort (portSet bits) test = some k :=
  (find?_sorted_iff (portSet_sorted bits) test k).mpr ⟨⟨mem, meets⟩, lowest⟩

theorem firstPort_none {ports : List PortNo} {test : PortNo → Bool} (h : ∀ k ∈ ports, test k = false) :
    firstPort ports test = none :=
  List.find?_eq_none.mpr fun k hk => by simp [h k hk]

section
variable (m : AddressMap)

/-- The lowest free index of a map is the lowest at which no entry stands (R71). -/
theorem lowestFree_iff (i : Fin 64) : lowestFree m = some i ↔ m[i] = none ∧ ∀ j : Fin 64, j < i → m[j] ≠ none := by
  rw [lowestFree, find?_sorted_iff (List.pairwise_lt_finRange 64)]
  simp [Option.isSome_iff_ne_none]

theorem lowestFree_none : lowestFree m = none ↔ ∀ i : Fin 64, m[i] ≠ none := by
  rw [lowestFree, List.find?_eq_none]
  simp

/-- The index of a key is the lowest at which an entry with the key stands (R71). -/
theorem mapIndex_iff (key : Key) (i : Fin 64) :
    mapIndex m key = some i ↔ (∃ e : MapEntry, m[i] = some e ∧ e.key = key)
      ∧ ∀ j : Fin 64, j < i → ¬∃ e : MapEntry, m[j] = some e ∧ e.key = key := by
  rw [mapIndex, find?_sorted_iff (List.pairwise_lt_finRange 64)]
  simp

theorem mapConflicts_iff (e : MapEntry) :
    mapConflicts m e = true ↔
      ∃ held : MapEntry, mapEntry m e.key = some held ∧ (held.channel ≠ e.channel ∨ held.line ≠ e.line) := by
  unfold mapConflicts
  cases mapEntry m e.key <;> simp

theorem mapFull_iff (key : Key) : mapFull m key = true ↔ mapEntry m key = none ∧ ∀ i : Fin 64, m[i] ≠ none := by
  rw [mapFull, Bool.and_eq_true, Option.isNone_iff_eq_none, Option.isNone_iff_eq_none, ← mapEntry_none,
    lowestFree_none]

theorem mapIndex_isSome (key : Key) : (mapIndex m key).isSome = decide (mapEntry m key ≠ none) := by
  rw [Bool.eq_iff_iff, Option.isSome_iff_ne_none, decide_eq_true_eq, ne_eq, ne_eq, mapEntry_none]

theorem mapIndex_isNone (key : Key) : (mapIndex m key).isNone = decide (mapEntry m key = none) := by
  rw [Bool.eq_iff_iff, Option.isNone_iff_eq_none, decide_eq_true_eq, mapEntry_none]

end

/-! ### The maps of a port set, while an owner carries out a request -/

section
variable (s : State) (ports : List PortNo) (change : AddressMap → AddressMap)

theorem changeMaps_begun : changeMaps ports change s.begun = (changeMaps ports change s).begun := by
  induction ports generalizing s with
  | nil => rfl
  | cons p ps ih => exact ih (s.setMap p (change (s.map p)))

theorem changeMaps_answerWith (busy : s.engine.state = .busy) (o : ReqOutcome) (fs : List (Nat × List Byte)) :
    (changeMaps ports change s.begun).answerWith o fs =
      ({ s with maps := (changeMaps ports change s).maps } : State).returns o (resultOf fs) := by
  rw [changeMaps_begun, changeMaps_eq]
  exact State.begun_answerWith _ _ _ busy

end

/-! ### MAP_REMOVE -/

section
variable {s : State} {slot : List Byte}

/-- The bytes of MAP_REMOVE's result (R173). -/
theorem resultOf_mapRemove (held : Nat) : resultOf [(48, leBytes 1 held)] = leBytes 1 held ++ zeros 15 := by
  rw [resultOf_eq _ (by simp [Ordered])]
  simp [filled]

/-- The bytes of MAP_ADD's result (R173). -/
theorem resultOf_mapAdd (index fresh failing : Nat) :
    resultOf [(48, leBytes 1 index), (49, leBytes 1 fresh), (50, leBytes 1 failing)] =
      leBytes 1 index ++ leBytes 1 fresh ++ leBytes 1 failing ++ zeros 13 := by
  rw [resultOf_eq _ (by simp [Ordered])]
  simp [filled]

/-- Settles O30: the port set empty, the key on none of its ports, or removed from those that hold it. -/
theorem mapRemoveFreesTheKey : Obligations.MapRemoveFreesTheKey := by
  intro slot s h ports key held
  have counted : ((portSet (slotField slot 8 1)).countP fun k => (mapIndex (s.map k) (slotKey slot)).isSome)
      = held.length := by
    rw [List.countP_eq_length_filter]
    refine congrArg List.length (List.filter_congr fun k _ => mapIndex_isSome ..)
  have carried : exec .mapRemove s = .next (carryMapRemove slot s.begun) :=
    congrArg Host.Outcome.next (h.carryOut carryMapRemove)
  have arms : carryMapRemove slot s.begun =
      if ports = [] then s.begun.answerWith .badParam []
      else if held.length = 0 then s.begun.answerWith .notFound [(48, leBytes 1 0)]
      else (changeMaps ports (fun m => mapDelete m key) s.begun).answerWith .ok [(48, leBytes 1 held.length)] := by
    rw [← counted]
    rfl
  rw [carried, arms]
  refine ⟨fun empty => ?_, fun some' none' => ?_, fun some' once => ?_⟩
  · rw [if_pos empty, s.begun_answerWith .badParam [] h.busy]
    rfl
  · rw [if_neg some', if_pos (by rw [none']; rfl), s.begun_answerWith .notFound _ h.busy]
    rfl
  · have ports' : ports ≠ [] := by
      rintro empty
      exact some' (by simp only [held, empty, List.filter_nil])
    refine ⟨(changeMaps ports (fun m => mapDelete m key) s).maps, ?_, fun k other => ?_⟩
    · rw [if_neg ports', if_neg (by simpa using some'), changeMaps_answerWith _ _ _ h.1, resultOf_mapRemove]
    · have noTwice : ports.Nodup := portSet_nodup (slotField slot 8 1)
      show mapEntry ((changeMaps ports (fun m => mapDelete m key) s).map k) other = _
      rw [changeMaps_map _ _ _ _ noTwice]
      by_cases mem : k ∈ ports
      · rw [if_pos mem, mapDelete_spec _ _ (once k)]
        simp [mem]
      · rw [if_neg mem, if_neg fun both => mem both.1]

end

/-! ### MAP_ADD -/

section
variable {slot : List Byte}

/-- A parameter of MAP_ADD is out of its range (R74, R173). -/
def mapAddRefused (slot : List Byte) : Prop :=
  7 < slotField slot 9 1 ∨ (slotField slot 8 1).testBit (slotField slot 9 1) = false ∨ 1 < slotField slot 10 1
    ∨ 255 < slotField slot 12 2

theorem mem_portSet {bits : Nat} {k : PortNo} : k ∈ portSet bits ↔ bits.testBit k = true := by
  simp [portSet]

theorem mapAddParams_of_refused (h : mapAddRefused slot) : mapAddParams slot = none := by
  by_contra taken
  obtain ⟨p, hp⟩ := Option.ne_none_iff_exists'.mp taken
  simp only [mapAddParams, Option.bind_eq_bind, Option.bind_eq_some_iff] at hp
  obtain ⟨report, hr, _, line, _, channel, made⟩ := hp
  have low := lt_of_portNo? hr
  have line := le_of_twoValued line
  have channel := lt_of_channelNo? channel
  split at made
  · rename_i inSet
    rw [portNo?, dif_pos low, Option.some.injEq] at hr
    subst hr
    have bit := mem_portSet.mp (List.contains_iff_mem.mp inSet)
    unfold mapAddRefused at h
    rw [bit] at h
    simp at h
    omega
  · cases made

/-- The entry that MAP_ADD asks for, of a channel (R173). -/
def slotMapEntry (slot : List Byte) (ch : ChannelNo) : MapEntry :=
  { key := slotKey slot, channel := ch, line := if slotField slot 10 1 = 0 then .a else .b }

/-- A report port that is not refused is in the port set (R74). -/
theorem report_mem_portSet {report : PortNo} (hr : slotField slot 9 1 = report) (h : ¬mapAddRefused slot) :
    report ∈ portSet (slotField slot 8 1) := by
  simp only [mapAddRefused, not_or, hr] at h
  obtain ⟨_, bit, _⟩ := h
  exact mem_portSet.mpr (by simpa using bit)

theorem mapAddParams_of_valid {report : PortNo} {ch : ChannelNo} (hr : slotField slot 9 1 = report)
    (hc : slotField slot 12 2 = ch) (h : ¬mapAddRefused slot) :
    mapAddParams slot =
      some { ports := portSet (slotField slot 8 1), report := report, entry := slotMapEntry slot ch } := by
  have inSet : (portSet (slotField slot 8 1)).contains report = true :=
    List.contains_iff_mem.mpr (report_mem_portSet hr h)
  simp only [mapAddRefused, not_or] at h
  obtain ⟨_, _, line, _⟩ := h
  simp only [mapAddParams, hr, hc, portNo?_val, channelNo?_val, twoValued_of_le _ _ (Nat.le_of_not_lt line),
    Option.bind_eq_bind, Option.bind_some, inSet, if_true, slotMapEntry]

end

section
variable {s : State} {slot : List Byte}

theorem execMapAdd_refused (h : s.Holds 0x20 slot) (r : mapAddRefused slot) :
    exec .mapAdd s = .next (s.returns .badParam (zeros 16)) := by
  refine congrArg Host.Outcome.next ((h.carryOut carryMapAdd).trans ?_)
  unfold carryMapAdd
  rw [mapAddParams_of_refused r]
  exact s.begun_answerWith .badParam [] h.busy

variable {p : MapAddParams} (h : s.Holds 0x20 slot) (params : mapAddParams slot = some p)
include h params

/-- A port of the set holds the key with another channel or line (R74). -/
theorem execMapAdd_conflict {k : PortNo} (found : firstPort p.ports (fun k => mapConflicts (s.map k) p.entry) = some k) :
    exec .mapAdd s = .next (s.returns .conflict (leBytes 1 0xFF ++ leBytes 1 0 ++ leBytes 1 k ++ zeros 13)) := by
  refine congrArg Host.Outcome.next ((h.carryOut carryMapAdd).trans ?_)
  unfold carryMapAdd
  rw [params, ← resultOf_mapAdd]
  dsimp only
  rw [show firstPort p.ports (fun k => mapConflicts (s.begun.map k) p.entry) = some k from found]
  exact s.begun_answerWith _ _ h.busy

/-- A port of the set lacks the key and is full (R74). -/
theorem execMapAdd_full {k : PortNo} (agree : firstPort p.ports (fun k => mapConflicts (s.map k) p.entry) = none)
    (found : firstPort p.ports (fun k => mapFull (s.map k) p.entry.key) = some k) :
    exec .mapAdd s = .next (s.returns .mapFull (leBytes 1 0xFF ++ leBytes 1 0 ++ leBytes 1 k ++ zeros 13)) := by
  refine congrArg Host.Outcome.next ((h.carryOut carryMapAdd).trans ?_)
  unfold carryMapAdd
  rw [params, ← resultOf_mapAdd]
  dsimp only
  rw [show firstPort p.ports (fun k => mapConflicts (s.begun.map k) p.entry) = none from agree]
  dsimp only
  rw [show firstPort p.ports (fun k => mapFull (s.begun.map k) p.entry.key) = some k from found]
  exact s.begun_answerWith _ _ h.busy

/-- The entry is installed on every port of the set (R75). -/
theorem execMapAdd_installed (agree : firstPort p.ports (fun k => mapConflicts (s.map k) p.entry) = none)
    (room : firstPort p.ports (fun k => mapFull (s.map k) p.entry.key) = none) {index : Fin 64}
    (hit : mapIndex ((changeMaps p.ports (fun m => mapInstall m p.entry) s).map p.report) p.entry.key = some index) :
    exec .mapAdd s =
      .next (({ s with maps := (changeMaps p.ports (fun m => mapInstall m p.entry) s).maps } : State).returns .ok
        (leBytes 1 index ++ leBytes 1 (p.ports.filter fun k => mapEntry (s.map k) p.entry.key = none).length
          ++ leBytes 1 0xFF ++ zeros 13)) := by
  have fresh : (p.ports.countP fun k => (mapIndex (s.map k) p.entry.key).isNone)
      = (p.ports.filter fun k => mapEntry (s.map k) p.entry.key = none).length := by
    rw [List.countP_eq_length_filter]
    exact congrArg List.length (List.filter_congr fun k _ => mapIndex_isNone ..)
  refine congrArg Host.Outcome.next ((h.carryOut carryMapAdd).trans ?_)
  unfold carryMapAdd
  rw [params]
  dsimp only
  rw [show firstPort p.ports (fun k => mapConflicts (s.begun.map k) p.entry) = none from agree]
  dsimp only
  rw [show firstPort p.ports (fun k => mapFull (s.begun.map k) p.entry.key) = none from room]
  dsimp only
  rw [show (p.ports.countP fun k => (mapIndex (s.begun.map k) p.entry.key).isNone) = _ from fresh, changeMaps_begun,
    show mapIndex ((changeMaps p.ports (fun m => mapInstall m p.entry) s).begun.map p.report) p.entry.key = some index
      from hit, ← changeMaps_begun, changeMaps_answerWith _ _ _ h.1, resultOf_mapAdd]
  rfl

end

/-- No entry of the map stands in the way of an entry: none of its key for another line, and room for it (R74). -/
theorem mapInstall_of_fits {m : AddressMap} {e : MapEntry} (agrees : mapConflicts m e = false)
    (room : mapFull m e.key = false) : ∃ i : Fin 64, mapIndex (mapInstall m e) e.key = some i := by
  obtain ⟨_, _, _, hit⟩ := mapInstall_spec m e agrees room
  exact Option.isSome_iff_exists.mp hit

/-- What an installation on a port set comes to on each port (R75). -/
theorem changeMaps_mapInstall {s : State} {bits : Nat} {e : MapEntry}
    (agree : ∀ k ∈ portSet bits, mapConflicts (s.map k) e = false)
    (room : ∀ k ∈ portSet bits, mapFull (s.map k) e.key = false) (k : PortNo) :
    let t := changeMaps (portSet bits) (fun m => mapInstall m e) s
    (∀ key : Key, mapEntry (t.map k) key = if k ∈ portSet bits ∧ key = e.key then some e else mapEntry (s.map k) key)
      ∧ (k ∈ portSet bits → mapEntry (s.map k) e.key = none → mapIndex (t.map k) e.key = lowestFree (s.map k))
      ∧ ∀ (i : Fin 64) (held : MapEntry), (s.map k)[i] = some held → (t.map k)[i] = some held := by
  dsimp only
  rw [changeMaps_map _ _ _ _ (portSet_nodup bits)]
  by_cases mem : k ∈ portSet bits
  · obtain ⟨lookups, placed, kept, _⟩ := mapInstall_spec (s.map k) e (agree k mem) (room k mem)
    rw [if_pos mem]
    exact ⟨fun key => by rw [lookups]; simp [mem], fun _ => placed, kept⟩
  · rw [if_neg mem]
    exact ⟨fun key => by simp [mem], fun inside => absurd inside mem, fun _ _ held => held⟩

/-- Settles O29: a parameter refused, a port in the way, or the entry installed on every port of the set; and what the
lowest free index and the index of a key are. -/
theorem mapAddInstallsOrRefusesWhole : Obligations.MapAddInstallsOrRefusesWhole := by
  refine ⟨?_, fun m => ⟨lowestFree_iff m, lowestFree_none m, ?_⟩⟩
  · intro slot s h number ports refused
    refine ⟨execMapAdd_refused h, ?_⟩
    intro report ch valid hr hc e conflicts full bad
    have params := mapAddParams_of_valid hr hc valid
    have agrees {k : PortNo} (h : ¬conflicts k) : mapConflicts (s.map k) e = false :=
      Bool.eq_false_iff.mpr fun c => h ((mapConflicts_iff _ e).mp c)
    have room {k : PortNo} (h : ¬full k) : mapFull (s.map k) e.key = false :=
      Bool.eq_false_iff.mpr fun f => h ((mapFull_iff _ e.key).mp f)
    have inSet : report ∈ ports := report_mem_portSet hr valid
    have noTwice : ports.Nodup := portSet_nodup (slotField slot 8 1)
    refine ⟨fun fits => ?_, fun k mem => ⟨fun clash lowest => ?_, fun agree lacking lowest => ?_⟩⟩
    · have agree : ∀ k ∈ ports, mapConflicts (s.map k) e = false := fun k mem => agrees (fits k mem).1
      have fit : ∀ k ∈ ports, mapFull (s.map k) e.key = false := fun k mem => room (fits k mem).2
      obtain ⟨index, hit⟩ := mapInstall_of_fits (agree report inSet) (fit report inSet)
      have hit : mapIndex ((changeMaps ports (fun m => mapInstall m e) s).map report) e.key = some index := by
        rw [changeMaps_map _ _ _ _ noTwice, if_pos inSet, hit]
      exact ⟨(changeMaps ports (fun m => mapInstall m e) s).maps, index,
        execMapAdd_installed h params (firstPort_none agree) (firstPort_none fit) hit, hit,
        changeMaps_mapInstall agree fit⟩
    · exact execMapAdd_conflict h params
        (firstPort_portSet mem ((mapConflicts_iff _ e).mpr clash) fun j hj below => agrees (lowest j hj below))
    · exact execMapAdd_full h params (firstPort_none fun j hj => agrees (agree j hj))
        (firstPort_portSet mem ((mapFull_iff _ e.key).mpr lacking) fun j hj below => room (lowest j hj below))
  · intro key at'
    refine ⟨mapIndex_iff m key, mapIndex_none.trans ?_, rfl⟩
    exact ⟨fun h i ⟨e, stands, hk⟩ => h i e stands hk, fun h i e stands hk => h i ⟨e, stands, hk⟩⟩

/-! ### PATTERN_LOAD -/

/-- The bytes put into the pool stand from their offset on; every other byte is as it was (R77). -/
theorem loadPattern_get (pool : Vector Byte 256) (offset : Nat) (bytes : List Byte) (i : Fin 256) :
    some (loadPattern pool offset bytes)[i] =
      if offset ≤ i ∧ (i : Nat) < offset + bytes.length then bytes[(i : Nat) - offset]? else some pool[i] := by
  induction bytes generalizing pool offset with
  | nil => rw [if_neg (by simp)]; rfl
  | cons b bs ih =>
    rw [loadPattern, ih]
    rcases Nat.lt_trichotomy i offset with before | here | behind
    · rw [if_neg (by omega), if_neg (by omega)]
      simp [Nat.ne_of_gt before]
    · rw [if_neg (by omega), if_pos (by simp; omega)]
      simp [here]
    · have next : (i : Nat) - offset = (i - (offset + 1)) + 1 := by omega
      have same : (pool.setIfInBounds offset b)[i] = pool[i] :=
        Vector.getElem_setIfInBounds_ne i.isLt (Nat.ne_of_lt behind)
      rw [same, next, List.getElem?_cons_succ, List.length_cons]
      exact if_congr (by omega) rfl rfl

/-- The bytes of PATTERN_LOAD's result (R173). -/
theorem resultOf_patternLoad (offset n : Nat) :
    resultOf [(48, leBytes 2 offset), (50, leBytes 1 n)] = leBytes 2 offset ++ leBytes 1 n ++ zeros 13 := by
  rw [resultOf_eq _ (by simp [Ordered])]
  simp [filled]

/-- Settles O31: the length or the place refused, or the bytes loaded. -/
theorem patternLoadReplacesBytes : Obligations.PatternLoadReplacesBytes := by
  intro slot s h size offset n refused
  have carried : exec .patternLoad s = .next (if refused then s.begun.answerWith .badParam []
      else ({ s with patterns := loadPattern s.patterns offset (fieldAt slot 16 n) } : State).begun.answerWith .ok
        [(48, leBytes 2 offset), (50, leBytes 1 n)]) :=
    congrArg Host.Outcome.next (h.carryOut carryPatternLoad)
  rw [carried]
  refine ⟨fun r => ?_, fun taken => ?_⟩
  · rw [if_pos r, s.begun_answerWith .badParam [] h.busy]
    rfl
  · have given : (fieldAt slot 16 n).length = n := by
      simp only [fieldAt, List.length_take, List.length_drop, size]
      omega
    refine ⟨loadPattern s.patterns offset (fieldAt slot 16 n), ?_, fun i => ?_⟩
    · rw [if_neg taken, ← resultOf_patternLoad]
      exact congrArg Host.Outcome.next
        (State.begun_answerWith { s with patterns := loadPattern s.patterns offset (fieldAt slot 16 n) } _ _ h.busy)
    · show some (loadPattern s.patterns offset (fieldAt slot 16 n))[i] = _
      rw [loadPattern_get, given]
      refine ite_congr rfl (fun within => ?_) fun _ => rfl
      rw [fieldAt, List.getElem?_take_of_lt (by omega), List.getElem?_drop]

end Sys2Proof.Machine
end

section
/-! SUPPORT. The classification of a frame: its verdict by the branches, and what follows each verdict (R68, R72, R73, R79 to
R82). -/

namespace Sys2Proof.Machine

/-! ### The marker check -/

section
variable {pool payload : List Byte} {m : Marker}

theorem markerCheck_short (some' : m.length ≠ 0) (beyond : ¬m.offset + m.length ≤ payload.length) :
    markerCheck pool payload m = some .short := by
  rw [markerCheck, if_neg some', if_pos (Nat.lt_of_not_le beyond)]

theorem markerCheck_differs (some' : m.length ≠ 0) (within : m.offset + m.length ≤ payload.length)
    (differs : fieldAt payload m.offset m.length ≠ fieldAt pool m.index m.length) :
    markerCheck pool payload m = some .marker := by
  rw [markerCheck, if_neg some', if_neg (Nat.not_lt_of_le within), if_neg differs]

/-- The check passes where there is no marker, and where the payload holds it (R79). -/
theorem markerCheck_passes (passes : m.length = 0 ∨ (m.offset + m.length ≤ payload.length
    ∧ fieldAt payload m.offset m.length = fieldAt pool m.index m.length)) : markerCheck pool payload m = none := by
  rcases passes with absent | ⟨within, same⟩
  · rw [markerCheck, if_pos absent]
  · rw [markerCheck, if_neg (Nat.not_lt_of_le within), if_pos same, ite_self]

end

/-! ### The verdict on a frame -/

section
variable {s : State} {f : Frame}

theorem verdictOf_notUdp (shape : parseFrame (beforeFcs f.bytes) = none) : verdictOf s f = .unmapped .notUdp := by
  rw [verdictOf, shape]

variable {p : Parsed} (parsed : parseFrame (beforeFcs f.bytes) = some p)
include parsed

theorem verdictOf_noMap (missing : mapEntry (s.map f.port) p.key = none) : verdictOf s f = .unmapped .noMap := by
  simp only [verdictOf, parsed, missing]

variable {e : MapEntry} (hit : mapEntry (s.map f.port) p.key = some e)
include hit

theorem verdictOf_off (off : (s.channel e.channel).on = false) : verdictOf s f = .unmapped .channelOff := by
  simp only [verdictOf, parsed, hit, off, Bool.false_eq_true, if_false]

variable (on : (s.channel e.channel).on = true)
include on

theorem verdictOf_marker {reason : Reason}
    (fails : markerCheck s.patterns.toList p.payload (s.channel e.channel).settings.marker = some reason) :
    verdictOf s f = .foreign e reason := by
  simp only [verdictOf, parsed, hit, on, if_true, verdictOn, fails]

variable (passes : markerCheck s.patterns.toList p.payload (s.channel e.channel).settings.marker = none)
include passes

theorem verdictOf_short (missing : extract (s.channel e.channel).settings p.payload = none) :
    verdictOf s f = .foreign e .short := by
  simp only [verdictOf, parsed, hit, on, if_true, verdictOn, passes, missing]

theorem verdictOf_extracted {q m : Nat} (found : extract (s.channel e.channel).settings p.payload = some (q, m)) :
    verdictOf s f = .classified e q m := by
  simp only [verdictOf, parsed, hit, on, if_true, verdictOn, passes, found]

end

/-! ### What follows a verdict -/

section
variable {s : State} {k : PortNo} {f : Frame} {rest : List Frame} (queue : (s.port k).queue = f :: rest)
  (free : s.waitingOf k = none)
include queue free

theorem execClassifyFrame_head :
    exec (.classifyFrame k) s = .next (classify f (s.setPort k { s.port k with queue := rest })) := by
  show Host.Outcome.next (classifyHead k s) = _
  simp only [classifyHead, free, queue]

theorem execClassifyFrame_unmapped {reason : Reason} (verdict : verdictOf s f = .unmapped reason) :
    exec (.classifyFrame k) s =
      .next (setAsideUnmapped f reason (s.setPort k { s.port k with queue := rest })) := by
  rw [execClassifyFrame_head queue free, classify, show verdictOf (s.setPort k _) f = _ from verdict]

theorem execClassifyFrame_foreign {e : MapEntry} {reason : Reason} (verdict : verdictOf s f = .foreign e reason) :
    exec (.classifyFrame k) s =
      .next (setAsideForeign f e reason (s.setPort k { s.port k with queue := rest })) := by
  rw [execClassifyFrame_head queue free, classify, show verdictOf (s.setPort k _) f = _ from verdict]

theorem execClassifyFrame_classified {e : MapEntry} {q m : Nat} (verdict : verdictOf s f = .classified e q m) :
    exec (.classifyFrame k) s =
      .next (handToTable (classifiedOf s f e q m) (s.setPort k { s.port k with queue := rest })) := by
  rw [execClassifyFrame_head queue free, classify, show verdictOf (s.setPort k _) f = _ from verdict]
  rfl

end

theorem handToTable_free {s : State} {x : Classified} (free : s.inputOf x.port = none) :
    handToTable x s = (s.setInput x.port (some x)).bump (.classifierChannel x.channel .classified) := by
  rw [handToTable, free]
  rfl

theorem handToTable_taken {s : State} {x : Classified} (taken : s.inputOf x.port ≠ none) :
    handToTable x s = s.setWaiting x.port (some x) := by
  rw [handToTable, if_pos (Option.isSome_iff_ne_none.mpr taken)]

/-- Where a frame of the port waits, or none is in the handoff queue, the Classifier takes none (R68). -/
theorem execClassifyFrame_idle {k : PortNo} {s : State} (h : s.waitingOf k ≠ none ∨ (s.port k).queue = []) :
    exec (.classifyFrame k) s = .next s := by
  refine congrArg Host.Outcome.next ?_
  unfold classifyHead
  dsimp only
  split
  · rename_i free queue
    rcases h with waits | empty
    · exact absurd free waits
    · rw [queue] at empty; cases empty
  · rfl
  · rfl

/-- Settles O13: the head frame by its verdict, branch by branch; no frame to take; and the record of an arrival. -/
theorem classifierTakesHeadFrames : Obligations.ClassifierTakesHeadFrames := by
  refine ⟨?_, fun k s h => execClassifyFrame_idle h, fun _ _ _ _ _ _ _ _ _ => rfl⟩
  intro k f rest s queue port free u n unmapped foreign classified
  subst port
  refine ⟨fun shape => ?_, fun p parsed => ⟨fun missing => ?_, ?_⟩⟩
  · exact execClassifyFrame_unmapped queue free (verdictOf_notUdp shape)
  · exact execClassifyFrame_unmapped queue free (verdictOf_noMap parsed missing)
  · intro e hit x slice found holds passes
    refine ⟨fun off => ?_, fun on some' beyond => ?_, fun on some' within differs => ?_, fun on good missing => ?_,
      fun q m on good extracted => ?_⟩
    · exact execClassifyFrame_unmapped queue free (verdictOf_off parsed hit off)
    · exact execClassifyFrame_foreign queue free (verdictOf_marker parsed hit on (markerCheck_short some' beyond))
    · exact execClassifyFrame_foreign queue free
        (verdictOf_marker parsed hit on (markerCheck_differs some' within differs))
    · exact execClassifyFrame_foreign queue free (verdictOf_short parsed hit on (markerCheck_passes good) missing)
    · rw [execClassifyFrame_classified queue free (verdictOf_extracted parsed hit on (markerCheck_passes good) extracted)]
      exact ⟨fun empty => congrArg Host.Outcome.next (handToTable_free (s := u) empty),
        fun taken => congrArg Host.Outcome.next (handToTable_taken (s := u) taken)⟩

end Sys2Proof.Machine
end

section
/-! SUPPORT. The numbers that bytes spell, the parse of a frame by its fields, and what a channel's locators read (R69, R70,
R80). -/

namespace Sys2Proof.Machine

/-! ### Big-endian numbers and fields -/

/-- A byte after a big-endian string is its least significant. -/
theorem beNat_append_byte (bs : List Byte) (b : Byte) : beNat (bs ++ [b]) = 256 * beNat bs + b.toNat := by
  simp [beNat, leNat, Nat.add_comm]

/-- A byte after a bit vector that a big-endian string spells. -/
theorem beNat_append_toNat {bs : List Byte} {n : Nat} {x : BitVec n} (h : beNat bs = x.toNat) (b : Byte) :
    beNat (bs ++ [b]) = (x ++ b).toNat := by
  rw [beNat_append_byte, h, BitVec.toNat_append, ← Nat.shiftLeft_add_eq_or_of_lt b.isLt, Nat.shiftLeft_eq]
  omega

theorem beNat_one (a : Byte) : beNat [a] = a.toNat := by simp [beNat, leNat]

theorem beNat_two (a b : Byte) : beNat [a, b] = 256 * a.toNat + b.toNat := by
  rw [← beNat_one a]
  exact beNat_append_byte [a] b

theorem ofNat_beNat_two (a b : Byte) : BitVec.ofNat 16 (beNat [a, b]) = a ++ b := by
  rw [show beNat [a, b] = (a ++ b).toNat from beNat_append_toNat (beNat_one a) b]
  exact (BitVec.ofNat_toNat _ _).trans (BitVec.setWidth_eq _)

theorem ofNat_beNat_four (a b c d : Byte) : BitVec.ofNat 32 (beNat [a, b, c, d]) = a ++ b ++ c ++ d := by
  rw [show beNat [a, b, c, d] = (a ++ b ++ c ++ d).toNat from
    beNat_append_toNat (beNat_append_toNat (beNat_append_toNat (beNat_one a) b) c) d]
  exact (BitVec.ofNat_toNat _ _).trans (BitVec.setWidth_eq _)

/-- A field behind a string of known length. -/
theorem fieldAt_append_right {xs : List Byte} {n : Nat} (size : xs.length = n) (ys : List Byte) (offset length : Nat) :
    fieldAt (xs ++ ys) (n + offset) length = fieldAt ys offset length := by
  subst size
  simp [fieldAt, List.drop_append, List.drop_of_length_le]

/-- A field within the middle of three strings. -/
theorem fieldAt_middle {bs pre mid post : List Byte} {n offset length : Nat} (frame : bs = pre ++ (mid ++ post))
    (size : pre.length = n) (within : offset + length ≤ mid.length) :
    fieldAt bs (n + offset) length = fieldAt mid offset length := by
  rw [frame, fieldAt_append_right size, fieldAt, fieldAt, List.drop_append_of_le_length (by omega),
    List.take_append_of_le_length (by rw [List.length_drop]; omega)]

section
variable (bs : List Byte)

theorem beField?_iff (offset length n : Nat) :
    beField? bs offset length = some n ↔ offset + length ≤ bs.length ∧ beNat (fieldAt bs offset length) = n := by
  unfold beField? field?
  split <;> simp [*]

theorem field?_iff (offset length : Nat) (field : List Byte) :
    field? bs offset length = some field ↔ offset + length ≤ bs.length ∧ fieldAt bs offset length = field := by
  unfold field?
  split <;> simp [*]

theorem field?_of_le {offset length : Nat} (h : offset + length ≤ bs.length) :
    field? bs offset length = some (fieldAt bs offset length) := if_pos h

/-- The first byte of a field of two decides its upper half. -/
theorem beNat_fieldAt_two {offset : Nat} (h : offset + 2 ≤ bs.length) :
    beNat (fieldAt bs offset 2) / 256 = beNat (fieldAt bs offset 1) := by
  have cut : bs.drop offset = bs[offset] :: bs[offset + 1] :: bs.drop (offset + 2) := by
    rw [List.drop_eq_getElem_cons (by omega), List.drop_eq_getElem_cons (by omega)]
  have low := (bs[offset + 1]).isLt
  rw [fieldAt, fieldAt, cut]
  simp only [List.take_succ_cons, List.take_zero]
  rw [beNat_two, beNat_one]
  omega

/-! ### The parse of a frame -/

/-- An IPv4 header stands behind the addresses, or behind one VLAN tag (R69). -/
theorem ipOffset_iff (h : Nat) :
    ipOffset bs = some h ↔
      (14 ≤ bs.length ∧ beNat (fieldAt bs 12 2) = 0x0800 ∧ h = 14)
      ∨ (18 ≤ bs.length ∧ beNat (fieldAt bs 12 2) = 0x8100 ∧ beNat (fieldAt bs 16 2) = 0x0800 ∧ h = 18) := by
  simp only [ipOffset, beField?_iff]
  split
  · simp only [Option.some.injEq]
    omega
  · split <;> simp <;> omega

/-- The offset of the IPv4 header by the type of the frame (R69). -/
theorem ipOffset_some (h : Nat) :
    ipOffset bs = some h ↔
      ((14 ≤ bs.length ∧ beNat (fieldAt bs 12 2) = 0x0800)
        ∨ (18 ≤ bs.length ∧ beNat (fieldAt bs 12 2) = 0x8100 ∧ beNat (fieldAt bs 16 2) = 0x0800))
      ∧ h = if beNat (fieldAt bs 12 2) = 0x0800 then 14 else 18 := by
  rw [ipOffset_iff]
  split <;> omega

/-- The IPv4 header at an offset is one that the part accepts (R70). -/
def acceptsIp (bs : List Byte) (h : Nat) : Prop :=
  beNat (fieldAt bs h 1) / 16 = 4 ∧ 20 ≤ beNat (fieldAt bs h 1) % 16 * 4
    ∧ h + beNat (fieldAt bs h 1) % 16 * 4 ≤ bs.length
    ∧ beNat (fieldAt bs (h + 6) 1) / 32 % 2 = 0 ∧ beNat (fieldAt bs (h + 6) 2) % 8192 = 0
    ∧ beNat (fieldAt bs (h + 9) 1) = 17

/-- The flag that more fragments follow stands in the first byte of its field (R70). -/
theorem moreFragments_iff {offset : Nat} (h : offset + 2 ≤ bs.length) :
    (beNat (fieldAt bs offset 2)).testBit 13 = false ↔ beNat (fieldAt bs offset 1) / 32 % 2 = 0 := by
  rw [← beNat_fieldAt_two bs h, Nat.testBit_eq_decide_div_mod_eq, decide_eq_false_iff_not]
  omega

theorem udpOffset_iff (h u : Nat) :
    udpOffset bs h = some u ↔ acceptsIp bs h ∧ u = h + beNat (fieldAt bs h 1) % 16 * 4 := by
  unfold acceptsIp
  simp only [udpOffset, Option.bind_eq_bind, Option.bind_eq_some_iff, beField?_iff, field?_iff, Option.bind_none,
    Option.ite_none_right_eq_some]
  constructor
  · rintro ⟨_, ⟨_, rfl⟩, ⟨version, header⟩, _, ⟨inside, _⟩, _, ⟨room, rfl⟩, _, ⟨_, rfl⟩, ⟨last, offset, udp⟩, found⟩
    exact ⟨⟨version, header, inside, (moreFragments_iff bs room).mp last, offset, udp⟩, (Option.some.inj found).symm⟩
  · rintro ⟨⟨version, header, inside, last, offset, udp⟩, rfl⟩
    exact ⟨_, ⟨by omega, rfl⟩, ⟨version, header⟩, _, ⟨inside, rfl⟩, _, ⟨by omega, rfl⟩, _, ⟨by omega, rfl⟩,
      ⟨(moreFragments_iff bs (by omega)).mpr last, offset, udp⟩, rfl⟩

/-- What the parse of a frame yields whose IPv4 header stands at h and whose UDP header stands at u (R70). -/
def parsedAt (bs : List Byte) (h u : Nat) : Parsed :=
  { key := { address := BitVec.ofNat 32 (beNat (fieldAt bs (h + 16) 4))
             udpPort := BitVec.ofNat 16 (beNat (fieldAt bs (u + 2) 2)) }
    payload := (bs.drop (u + 8)).take (beNat (fieldAt bs (u + 4) 2) - 8) }

theorem parseFrame_iff (p : Parsed) :
    parseFrame bs = some p ↔ ∃ h u, ipOffset bs = some h ∧ acceptsIp bs h
      ∧ u = h + beNat (fieldAt bs h 1) % 16 * 4 ∧ u + 8 ≤ bs.length ∧ 8 ≤ beNat (fieldAt bs (u + 4) 2)
      ∧ p = parsedAt bs h u := by
  simp only [parseFrame, Option.bind_eq_bind, Option.bind_eq_some_iff, beField?_iff, field?_iff,
    Option.ite_none_right_eq_some, udpOffset_iff]
  constructor
  · rintro ⟨h, ip, u, ⟨accepts, rfl⟩, _, ⟨inside, _⟩, _, ⟨_, rfl⟩, _, ⟨_, rfl⟩, _, ⟨_, rfl⟩, size, found⟩
    exact ⟨h, _, ip, accepts, rfl, inside, size, (Option.some.inj found).symm⟩
  · rintro ⟨h, _, ip, accepts, rfl, inside, size, rfl⟩
    have ⟨_, header, _⟩ := accepts
    exact ⟨h, ip, _, ⟨accepts, rfl⟩, _, ⟨inside, rfl⟩, _, ⟨by omega, rfl⟩, _, ⟨by omega, rfl⟩, _, ⟨by omega, rfl⟩, size, rfl⟩

end

/-! ### The sequence and the count -/

theorem Locator.read_missing {x : Locator} {payload : List Byte} (beyond : ¬x.offset + x.width ≤ payload.length) :
    x.read payload = none := by
  rw [Locator.read, field?, if_neg beyond]
  rfl

theorem Locator.read_of_le {x : Locator} {payload : List Byte} (within : x.offset + x.width ≤ payload.length) :
    x.read payload = some (match x.order with
      | .big => beNat (fieldAt payload x.offset x.width)
      | .little => leNat (fieldAt payload x.offset x.width)) := by
  rw [Locator.read, field?_of_le _ within]
  rfl

section
variable {c : ChannelSettings} {payload : List Byte}

theorem extract_no_sequence (missing : c.sequence.read payload = none) : extract c payload = none := by
  simp only [extract, missing, Option.bind_eq_bind, Option.bind_none]

variable {q : Nat} (sequence : c.sequence.read payload = some q)
include sequence

/-- A channel whose frames carry no count takes each as one message (R80). -/
theorem extract_one (absent : c.msgCount = none) : extract c payload = some (q, 1) := by
  simp only [extract, sequence, absent, Option.bind_eq_bind, Option.bind_some]

theorem extract_counted {x : Locator} (located : c.msgCount = some x) :
    extract c payload = (x.read payload).map fun n => (q, n) := by
  simp only [extract, sequence, located, Option.bind_eq_bind, Option.bind_some]
  cases x.read payload <;> rfl

end

/-! ### Frames laid out by their parts -/

/-- An IPv4 header behind the addresses and at most one VLAN tag (R69). -/
theorem ipOffset_of_layout {macs tag : List Byte} (rest : List Byte) (addresses : macs.length = 12)
    (tagged : tag = [] ∨ ∃ x y : Byte, tag = [0x81, 0x00, x, y]) :
    ipOffset (macs ++ tag ++ [0x08, 0x00] ++ rest) = some (macs ++ tag ++ [0x08, 0x00]).length := by
  rw [ipOffset_iff]
  rcases tagged with rfl | ⟨x, y, rfl⟩
  · have frame : macs ++ [] ++ [0x08, 0x00] ++ rest = macs ++ ([0x08, 0x00] ++ rest) := by simp
    have type : fieldAt (macs ++ [] ++ [0x08, 0x00] ++ rest) 12 2 = [0x08, 0x00] :=
      fieldAt_middle (offset := 0) frame addresses (by simp)
    exact .inl ⟨by simp; omega, by rw [type]; rfl, by simp [addresses]⟩
  · have frame : macs ++ [0x81, 0x00, x, y] ++ [0x08, 0x00] ++ rest
        = macs ++ ([0x81, 0x00, x, y, 0x08, 0x00] ++ rest) := by simp
    have type : fieldAt (macs ++ [0x81, 0x00, x, y] ++ [0x08, 0x00] ++ rest) 12 2 = [0x81, 0x00] :=
      fieldAt_middle (offset := 0) frame addresses (by simp)
    have inner : fieldAt (macs ++ [0x81, 0x00, x, y] ++ [0x08, 0x00] ++ rest) 16 2 = [0x08, 0x00] :=
      fieldAt_middle (offset := 4) frame addresses (by simp)
    exact .inr ⟨by simp; omega, by rw [type]; rfl, by rw [inner]; rfl, by simp [addresses]⟩

section
variable {bs pre header options udp payload padding : List Byte}
  (frame : bs = pre ++ (header ++ (options ++ (udp ++ (payload ++ padding)))))
  (size : header.length = 20) (version : beNat (fieldAt header 0 1) = 64 + (20 + options.length) / 4)
  (words : options.length % 4 = 0) (few : options.length ≤ 40)
include frame size

theorem fieldAt_header {offset length : Nat} (within : offset + length ≤ 20) :
    fieldAt bs (pre.length + offset) length = fieldAt header offset length :=
  fieldAt_middle frame rfl (by omega)

include version words few

/-- An IPv4 header with options is accepted where it is no fragment and carries UDP (R70). -/
theorem acceptsIp_of_layout (last : beNat (fieldAt header 6 1) / 32 % 2 = 0) (offset : beNat (fieldAt header 6 2) % 8192 = 0)
    (protocol : beNat (fieldAt header 9 1) = 17) : acceptsIp bs pre.length := by
  have first : fieldAt bs pre.length 1 = fieldAt header 0 1 := fieldAt_header (offset := 0) frame size (by omega)
  unfold acceptsIp
  rw [first, fieldAt_header frame size (by omega), fieldAt_header frame size (by omega),
    fieldAt_header frame size (by omega), version]
  refine ⟨by omega, by omega, ?_, last, offset, protocol⟩
  simp only [frame, List.length_append, size]
  omega

/-- The parse of such a frame: the key from its fields, and the payload without what pads the frame (R70). -/
theorem parseFrame_of_layout (udpSize : udp.length = 8) (accepts : acceptsIp bs pre.length)
    (ip : ipOffset bs = some pre.length) (length : beNat (fieldAt udp 4 2) = 8 + payload.length) :
    parseFrame bs = some
      { key := { address := BitVec.ofNat 32 (beNat (fieldAt header 16 4))
                 udpPort := BitVec.ofNat 16 (beNat (fieldAt udp 2 2)) }
        payload := payload } := by
  have first : fieldAt bs pre.length 1 = fieldAt header 0 1 := fieldAt_header (offset := 0) frame size (by omega)
  have words4 : beNat (fieldAt header 0 1) % 16 * 4 = 20 + options.length := by omega
  have before : (pre ++ header ++ options).length = pre.length + (20 + options.length) := by
    simp only [List.length_append, size, Nat.add_assoc]
  have udpField (i n : Nat) (within : i + n ≤ 8) :
      fieldAt bs (pre.length + (20 + options.length) + i) n = fieldAt udp i n :=
    fieldAt_middle (post := payload ++ padding) (by simp only [frame, List.append_assoc]) before (by omega)
  have behind : (pre ++ header ++ options ++ udp).length = pre.length + (20 + options.length) + 8 := by
    rw [List.length_append, before, udpSize]
  have carried : fieldAt bs (pre.length + (20 + options.length) + 8) payload.length = payload := by
    have whole : fieldAt payload 0 payload.length = payload := List.take_length
    exact (fieldAt_middle (offset := 0) (post := padding) (by simp only [frame, List.append_assoc]) behind (by omega)).trans
      whole
  rw [parseFrame_iff]
  refine ⟨pre.length, _, ip, accepts, rfl, ?_, ?_, ?_⟩
  · rw [first, words4]
    simp only [frame, List.length_append, size, udpSize]
    omega
  · rw [first, words4, udpField 4 2 (by omega)]
    omega
  · rw [parsedAt, first, words4, fieldAt_header frame size (by omega), udpField 2 2 (by omega),
      udpField 4 2 (by omega), length, Nat.add_sub_cancel_left]
    exact congrArg _ carried.symm

end

/-- Settles O14: a frame by its layout, any frame by its fields, the locators of a channel, and the numbers of bytes. -/
theorem framesParseToKeyPayloadSequenceAndCount : Obligations.FramesParseToKeyPayloadSequenceAndCount := by
  refine ⟨?_, ?_, ?_, rfl, rfl, fun b bs => ⟨rfl, beNat_append_byte bs b⟩⟩
  · intro macs tag options payload padding tos l1 l2 i1 i2 fl ttl c1 c2 a1 a2 a3 a4 d1 d2 d3 d4 p1 p2 q1 q2 u1 u2 k1 k2
      first addresses tagged version words few unfragmented length
    have frame : macs ++ tag ++ [0x08, 0x00]
          ++ [first, tos, l1, l2, i1, i2, fl, 0, ttl, 17, c1, c2, a1, a2, a3, a4, d1, d2, d3, d4] ++ options
          ++ [p1, p2, q1, q2, u1, u2, k1, k2] ++ payload ++ padding
        = (macs ++ tag ++ [0x08, 0x00])
          ++ ([first, tos, l1, l2, i1, i2, fl, 0, ttl, 17, c1, c2, a1, a2, a3, a4, d1, d2, d3, d4] ++ (options
          ++ ([p1, p2, q1, q2, u1, u2, k1, k2] ++ (payload ++ padding)))) := by simp only [List.append_assoc]
    have version : beNat [first] = 64 + (20 + options.length) / 4 := (beNat_one first).trans version
    have accepts := acceptsIp_of_layout frame rfl version words few
      (show beNat [fl] / 32 % 2 = 0 by rw [beNat_one]; omega)
      (show beNat [fl, 0] % 8192 = 0 by rw [beNat_two]; simp; omega) rfl
    rw [parseFrame_of_layout frame rfl version words few rfl accepts (frame ▸ ipOffset_of_layout _ addresses tagged)
      (show beNat [u1, u2] = _ by rw [beNat_two]; omega)]
    rw [← ofNat_beNat_four d1, ← ofNat_beNat_two q1]
    rfl
  · intro bs be plain tagged h u accepted
    have parse (p : Parsed) : parseFrame bs = some p ↔ accepted ∧ p = parsedAt bs h u := by
      simp only [parseFrame_iff, ipOffset_some, acceptsIp, accepted, and_assoc]
      constructor
      · rintro ⟨_, _, shape, rfl, version, header, inside, last, offset, udp, rfl, room, size, rfl⟩
        exact ⟨shape, version, header, inside, last, offset, udp, room, size, rfl⟩
      · rintro ⟨shape, version, header, inside, last, offset, udp, room, size, rfl⟩
        exact ⟨_, _, shape, rfl, version, header, inside, last, offset, udp, rfl, room, size, rfl⟩
    refine ⟨fun refused => ?_, fun accepts => (parse _).mpr ⟨accepts, rfl⟩⟩
    exact Option.eq_none_iff_forall_ne_some.mpr fun p found => refused ((parse p).mp found).1
  · intro c payload holds number
    refine ⟨fun missing => extract_no_sequence (Locator.read_missing missing),
      fun sequence absent => extract_one (Locator.read_of_le sequence) absent, fun x sequence located => ?_⟩
    rw [extract_counted (Locator.read_of_le sequence) located]
    exact ⟨fun missing => by rw [Locator.read_missing missing]; rfl, fun count => by rw [Locator.read_of_le count]; rfl⟩

end Sys2Proof.Machine
end

section
/-! SUPPORT. The bounds of the pool: what the Table's operations do to the numbers of entries, and that every command keeps
the pool and each channel within its bound (R89, R91, R121). -/

namespace Sys2Proof.Machine

/-! ### Operations that add no entry -/

/-- t has the channels of s, and neither its pool nor any channel holds more entries. -/
structure State.NoMore (s t : State) : Prop where
  channels : t.channels = s.channels
  pool : t.entries.length ≤ s.entries.length
  own : ∀ ch : ChannelNo, (t.channelEntries ch).length ≤ (s.channelEntries ch).length

section
variable {s t : State} {ch : ChannelNo}

theorem State.Adds.noMore (a : s.Adds t []) : s.NoMore t :=
  ⟨a.channels, a.entries.length_le, fun ch => (a.channelEntries ch).length_le⟩

theorem State.NoMore.channel (h : s.NoMore t) (ch : ChannelNo) : t.channel ch = s.channel ch := by
  simp only [State.channel, h.channels]

/-- Entries changed in place stay as many, on their channels. -/
theorem replaceEntry_noMore (s : State) (e p : Entry) (same : p.channel = e.channel) :
    s.NoMore { s with entries := replaceEntry s.entries e p } := by
  refine ⟨rfl, Nat.le_of_eq (List.length_map ..), fun ch => Nat.le_of_eq ?_⟩
  simp only [State.channelEntries, replaceEntry, ← List.countP_eq_length_filter, List.countP_map]
  refine List.countP_congr fun y _ => ?_
  by_cases hy : y = e
  · simp [hy, same]
  · simp [hy]

theorem State.PoolBounded.noMore (h : s.PoolBounded) (n : s.NoMore t) : t.PoolBounded := by
  obtain ⟨pool, bounded⟩ := h
  refine ⟨n.pool.trans pool, fun ch => ?_⟩
  obtain ⟨few, low, high, off⟩ := bounded ch
  have fewer := n.own ch
  unfold State.ChannelBounded
  rw [n.channel ch]
  refine ⟨fewer.trans few, low, high, fun isOff => ?_⟩
  obtain ⟨empty, unset⟩ := off isOff
  rw [empty] at fewer
  exact ⟨List.eq_nil_of_length_eq_zero (Nat.le_zero.mp fewer), unset⟩

/-! ### An entry that is asked for -/

/-- The bounds of the pool, and a channel that is ON, so that it may hold entries. -/
structure State.OnBounded (s : State) (ch : ChannelNo) : Prop where
  bounded : s.PoolBounded
  on : (s.channel ch).on = true

theorem State.OnBounded.noMore (h : s.OnBounded ch) (n : s.NoMore t) : t.OnBounded ch :=
  ⟨h.bounded.noMore n, by rw [n.channel]; exact h.on⟩

theorem State.OnBounded.adds (h : s.OnBounded ch) (a : s.Adds t []) : t.OnBounded ch := h.noMore a.noMore

/-- An entry created with room in its channel and in the pool. -/
theorem State.OnBounded.createEntry {e : Entry} (h : s.OnBounded e.channel)
    (room : (s.channelEntries e.channel).length < (s.channel e.channel).settings.entryCap)
    (pool : s.entries.length < Config.poolSize) : (createEntry e s).OnBounded e.channel := by
  obtain ⟨⟨_, bounded⟩, on⟩ := h
  refine ⟨⟨by rw [length_createEntry]; exact pool, fun ch => ?_⟩, on⟩
  obtain ⟨few, low, high, off⟩ := bounded ch
  have grown := length_channelEntries_createEntry e s ch
  have same : (Machine.createEntry e s).channel ch = s.channel ch := rfl
  unfold State.ChannelBounded
  rw [same]
  by_cases own : e.channel = ch
  · subst own
    rw [if_pos rfl] at grown
    exact ⟨by omega, low, high, fun isOff => by rw [isOff] at on; cases on⟩
  · rw [if_neg own, Nat.add_zero] at grown
    refine ⟨by omega, low, high, fun isOff => ?_⟩
    obtain ⟨empty, unset⟩ := off isOff
    rw [empty] at grown
    exact ⟨List.eq_nil_of_length_eq_zero grown, unset⟩

/-- A candidate for eviction is an entry of the pool that meets the test. -/
theorem State.candidate_mem {filling : Option (BitVec 32)} {among : Entry → Bool} {v : Entry}
    (h : s.candidate filling among = some v) : v ∈ s.entries ∧ among v = true := by
  have met := List.find?_some h
  simp only [Bool.and_eq_true] at met
  exact ⟨List.mem_of_find?_eq_some h, met.1⟩

/-- An eviction makes room for one entry in the pool and in the evicted entry's channel. -/
theorem length_evictEntry {v : Entry} (mem : v ∈ s.entries) (frame : FrameTag) :
    (evictEntry v frame s).entries.length + 1 = s.entries.length
      ∧ ((evictEntry v frame s).channelEntries v.channel).length + 1 = (s.channelEntries v.channel).length := by
  have perm := List.perm_cons_erase mem
  have own := (perm.filter fun x => decide (x.channel = v.channel)).length_eq
  rw [List.filter_cons_of_pos (by simp), List.length_cons] at own
  exact ⟨perm.length_eq.symm, own.symm⟩

/-- An entry asked for, whichever of the four outcomes it comes to (R121 to R123). -/
theorem State.OnBounded.requestEntry {e : Entry} (h : s.OnBounded ch) (own : e.channel = ch) (frame : FrameTag)
    (filling : Option (BitVec 32)) : (requestEntry frame e filling s).OnBounded ch := by
  subst own
  have emitted := h.adds ((reportEntry_adds e .evicted (some frame) s).then (bump_adds _ (.expiry e.channel .evictions)))
  have evicted (v : Entry) := h.adds (evictEntry_adds v frame s)
  obtain ⟨pool, bounded⟩ := h.bounded
  obtain ⟨few, low, _, _⟩ := bounded e.channel
  rcases Nat.lt_or_ge (s.channelEntries e.channel).length (s.channel e.channel).settings.entryCap with room | full
  · rcases Nat.lt_or_ge s.entries.length Config.poolSize with space | packed
    · rw [requestEntry_room frame e filling s room space]
      exact h.createEntry room space
    · rw [requestEntry_full frame e filling s room packed]
      split
      · rename_i v found
        obtain ⟨mem, _⟩ := State.candidate_mem found
        have left := ((evictEntry_adds v frame s).channelEntries e.channel).length_le
        refine ((evicted v).adds (bump_adds _ .poolFull)).createEntry (Nat.lt_of_le_of_lt left room) ?_
        exact Nat.lt_of_succ_le ((length_evictEntry mem frame).1.trans_le pool)
      · exact emitted
  · rw [requestEntry_cap frame e filling s full]
    split
    · rename_i v found
      obtain ⟨mem, own⟩ := State.candidate_mem found
      rw [decide_eq_true_eq] at own
      obtain ⟨shorter, left⟩ := length_evictEntry mem frame
      rw [own] at left
      refine (evicted v).createEntry ?_ (Nat.lt_of_succ_le (shorter.trans_le pool))
      exact Nat.lt_of_succ_le (left.trans_le few)
    · exact emitted

theorem State.OnBounded.publish {f : Classified} (h : s.OnBounded f.channel) (flags : ArrivalFlags) (first k : Nat)
    (filling : Option (BitVec 32)) : (publish f flags first k filling s).OnBounded f.channel := by
  have recorded {u : State} (g : u.OnBounded f.channel) := (g.adds (offerOwn_adds f
    (f.arrival { flags with published := true } first k) u)).adds (bump_adds _ (.table f.channel .published))
  cases mode : (s.channel f.channel).settings.mode with
  | paired =>
    rw [publish_paired _ _ _ _ _ _ mode]
    exact recorded (h.requestEntry (e := f.awaitEntry _ first k) rfl (f.tag s) filling)
  | single =>
    rw [publish_single _ _ _ _ _ _ mode]
    exact recorded h

/-- The NextSeq of a channel that is ON may come to any value. -/
theorem State.OnBounded.setNext (h : s.OnBounded ch) (next : Option Nat) : (setNext ch next s).OnBounded ch := by
  obtain ⟨⟨pool, bounded⟩, on⟩ := h
  refine ⟨⟨pool, fun j => ?_⟩, by simpa [Machine.setNext] using on⟩
  obtain ⟨few, low, high, off⟩ := bounded j
  by_cases same : ch = j
  · subst same
    unfold State.ChannelBounded
    simp only [Machine.setNext, State.setChannel_channel_self]
    exact ⟨few, low, high, fun isOff => by rw [isOff] at on; cases on⟩
  · unfold State.ChannelBounded
    rw [Machine.setNext, State.setChannel_channel_of_ne s _ same]
    exact ⟨few, low, high, off⟩

end

/-! ### The cases of a frame -/

section
variable {s : State} {f : Classified} (h : s.OnBounded f.channel)
include h

theorem State.OnBounded.passOver (next newNext : Nat) : (passOver f next newNext s).OnBounded f.channel :=
  h.adds (flushEntries_adds ..)

theorem State.OnBounded.revealGap (m next a : Nat) : (revealGap f m next a s).OnBounded f.channel :=
  (h.passOver next (f.after m)).requestEntry (e := f.gapEntry _ next a) rfl (f.tag s) none

theorem State.OnBounded.takeResync (m next : Nat) (direction : Direction) :
    (takeResync f m next direction s).OnBounded f.channel := by
  have told (r : Record) := (h.adds (flushEntries_adds (some (f.tag s)) (s.collection f.channel) s)).adds
    (offerOwn_adds f r _)
  unfold Machine.takeResync
  dsimp only
  refine State.OnBounded.adds (State.OnBounded.setNext ?_ _) (bump_adds ..)
  split
  · exact (told _).adds (heartbeatRecord_adds ..)
  · exact (told _).publish ..

theorem State.OnBounded.takeHeartbeat (m next : Nat) : (takeHeartbeat f m next s).OnBounded f.channel := by
  unfold Machine.takeHeartbeat
  dsimp only
  split
  · exact h.takeResync ..
  · split
    · exact h.adds (heartbeatRecord_adds ..)
    · split
      · exact ((h.revealGap ..).adds (heartbeatRecord_adds ..)).setNext _
      · exact h.adds ((heartbeatRecord_adds ..).then (bump_adds ..))

/-- A fill changes its entry in place, or takes it out, and may ask for two more (R101). -/
theorem State.OnBounded.takeFill {e : Entry} (own : e.channel = f.channel) (m : Nat) :
    (takeFill f e m s).OnBounded f.channel := by
  have replaced (p : Entry) (same : p.channel = e.channel) := h.noMore (replaceEntry_noMore s e p same)
  unfold Machine.takeFill
  dsimp only
  split
  · exact (h.adds (State.Adds.erase s e)).publish ..
  · split
    · refine State.OnBounded.publish ?_ ..
      exact replaced _ rfl
    · split
      · refine State.OnBounded.publish ?_ ..
        exact replaced _ rfl
      · have kept := replaced { e with count := behindBy m f.s e.first } rfl
        exact (kept.requestEntry (by exact own) ..).publish ..

theorem State.OnBounded.takeBehind (m : Nat) : (takeBehind f m s).OnBounded f.channel := by
  unfold Machine.takeBehind
  split
  · rename_i e found
    have mem : e ∈ s.channelEntries f.channel := List.mem_of_find?_eq_some found
    split
    · exact h.takeFill (by simpa using (List.mem_filter.mp mem).2) m
    · split
      · exact h.adds ((bump_adds ..).then (rejectFrame_adds ..))
      · exact h.adds (((offerOwn_adds ..).then (State.Adds.erase ..)).then (bump_adds ..))
  · exact h.adds ((bump_adds ..).then (rejectFrame_adds ..))

theorem State.OnBounded.arbitrate : (arbitrate f s).OnBounded f.channel := by
  unfold Machine.arbitrate
  dsimp only
  split
  · unfold takeStart
    refine State.OnBounded.setNext ?_ _
    split
    · exact h.adds (heartbeatRecord_adds ..)
    · exact h.publish ..
  · exact h.takeHeartbeat ..
  · exact ((h.passOver ..).publish ..).setNext _
  · exact ((h.revealGap ..).publish ..).setNext _
  · exact h.takeResync ..
  · exact ((h.passOver ..).publish ..).setNext _
  · exact h.takeBehind _

end

/-! ### Every command -/

section
variable {s t : State}

/-- t has the channels, the pool and the creation order of s; the Table's inputs aside. -/
abbrev State.SamePool (s t : State) : Prop :=
  t.channels = s.channels ∧ t.entries = s.entries ∧ t.nextOrder = s.nextOrder

theorem State.SameTable.samePool (h : s.SameTable t) : s.SamePool t := by
  obtain ⟨channels, entries, order, _⟩ := h
  exact ⟨channels, entries, order⟩

/-- The inputs of the Table play no part. -/
theorem State.PoolBounded.same (h : s.PoolBounded) (g : s.SamePool t) : t.PoolBounded := by
  obtain ⟨channels, entries, _⟩ := g
  have own (ch : ChannelNo) : t.channelEntries ch = s.channelEntries ch := by simp only [State.channelEntries, entries]
  exact h.noMore ⟨channels, by rw [entries], fun ch => by rw [own]⟩

theorem classifyHead_samePool (k : PortNo) (s : State) : s.SamePool (classifyHead k s) := by
  have classified (f : Frame) (u : State) : u.SamePool (classify f u) := by
    unfold classify
    split
    · exact (setAsideUnmapped_sameTable f _ u).samePool
    · exact (setAsideForeign_sameTable f _ _ u).samePool
    · unfold handToTable
      split
      · exact ⟨rfl, rfl, rfl⟩
      · exact ⟨rfl, rfl, rfl⟩
  unfold classifyHead
  dsimp only
  split
  · exact classified _ (s.setPort k _)
  · exact ⟨rfl, rfl, rfl⟩
  · exact ⟨rfl, rfl, rfl⟩

theorem refillInput_samePool (k : PortNo) (s : State) : s.SamePool (refillInput k s) := by
  unfold refillInput
  split <;> exact ⟨rfl, rfl, rfl⟩

variable (h : s.PoolBounded)
include h

theorem State.PoolBounded.takeInput (k : PortNo) : (takeInput k s).PoolBounded := by
  unfold Machine.takeInput
  split
  · rename_i f _
    refine State.PoolBounded.same ?_ (refillInput_samePool k _)
    have begun : (s.setInput k none).PoolBounded := h
    unfold takeClassified
    dsimp only
    split
    · exact begun.noMore (bump_adds ..).noMore
    · rename_i current
      exact (State.OnBounded.arbitrate ⟨begun, by simpa using (not_or.mp current).1⟩).bounded
  · exact h

theorem State.PoolBounded.takeExpiry : (takeExpiry s).PoolBounded := by
  unfold Machine.takeExpiry
  split
  · split
    · exact h.noMore (removeEntry_adds ..).noMore
    · exact h
  · exact h

/-- A channel without entries and with NextSeq unset, its cap in range. -/
theorem State.PoolBounded.setChannel {ch : ChannelNo} (empty : s.channelEntries ch = []) {x : Channel}
    (low : 1 ≤ x.settings.entryCap) (high : x.settings.entryCap ≤ Config.poolSize) (unset : x.nextSeq = none) :
    (s.setChannel ch x).PoolBounded := by
  obtain ⟨pool, bounded⟩ := h
  have none' : (s.setChannel ch x).channelEntries ch = [] := empty
  refine ⟨pool, fun j => ?_⟩
  by_cases same : ch = j
  · subst same
    unfold State.ChannelBounded
    rw [State.setChannel_channel_self, none']
    exact ⟨Nat.zero_le _, low, high, fun _ => ⟨rfl, unset⟩⟩
  · obtain bounded := bounded j
    unfold State.ChannelBounded
    rw [State.setChannel_channel_of_ne s _ same]
    exact bounded

theorem State.PoolBounded.answerWith (o : ReqOutcome) (fs : List (Nat × List Byte)) : (s.answerWith o fs).PoolBounded :=
  h.same ⟨rfl, rfl, rfl⟩

theorem State.PoolBounded.carryChannelSet (slot : List Byte) : (carryChannelSet slot s).PoolBounded := by
  unfold Machine.carryChannelSet
  split
  · exact h.answerWith ..
  · rename_i ch _
    split
    · exact h.answerWith ..
    · rename_i isOff
      obtain ⟨_, _, _, off⟩ := h.2 ch
      obtain ⟨empty, unset⟩ := off (by simpa using isOff)
      split
      · exact h.answerWith ..
      · refine State.PoolBounded.answerWith (h.setChannel empty ?_ ?_ ?_) ..
        · exact Nat.le_max_left ..
        · exact Nat.max_le.mpr ⟨by decide, Nat.min_le_left ..⟩
        · exact unset

theorem State.PoolBounded.carryChannelStart (slot : List Byte) : (carryChannelStart slot s).PoolBounded := by
  unfold Machine.carryChannelStart
  split
  · exact h.answerWith ..
  · rename_i ch _
    dsimp only
    split
    · exact h.answerWith ..
    · rename_i isOff
      obtain ⟨_, low, high, off⟩ := h.2 ch
      obtain ⟨empty, _⟩ := off (by simpa using isOff)
      refine State.PoolBounded.answerWith (h.setChannel empty ?_ ?_ rfl) ..
      · exact low
      · exact high

theorem State.PoolBounded.carryChannelStop (slot : List Byte) : (carryChannelStop slot s).PoolBounded := by
  have stopped (ch : ChannelNo) : (stopChannel ch s).PoolBounded := by
    have flushed := h.noMore (flushEntries_adds none (s.collection ch) s).noMore
    obtain ⟨_, low, high, _⟩ := flushed.2 ch
    exact flushed.setChannel (flushEntries_collection ..) low high rfl
  unfold Machine.carryChannelStop
  split
  · exact h.answerWith ..
  · split
    · exact (stopped _).answerWith ..
    · exact h.answerWith ..

theorem State.PoolBounded.tableStep {c : Instr} (step : TableStep s c t) : t.PoolBounded := by
  have begun : s.begun.PoolBounded := h
  cases step with
  | same _ g => exact h.noMore g.adds.noMore
  | reset _ g => exact State.poolBounded_reset.noMore g.adds.noMore
  | classify k => exact h.same (classifyHead_samePool k s)
  | takeInput k => exact h.takeInput k
  | takeExpiry => exact h.takeExpiry
  | channelSet slot => exact begun.carryChannelSet slot
  | channelStart slot => exact begun.carryChannelStart slot
  | channelStop slot => exact begun.carryChannelStop slot

end

/-- A step carries out a command or idles: the pool stays bounded. -/
theorem step_keeps_poolBounded {s t : State} (h : s.PoolBounded) (e : step s = .next t) : t.PoolBounded := by
  rcases step_next_cases e with rfl | ⟨c, rest, _, he⟩
  · exact h
  · exact State.PoolBounded.tableStep (s := { s with pending := rest }) h (exec_tableStep c he)

end Sys2Proof.Machine
end

section
/-! SUPPORT. The Staging Buffer and the states of the lanes across the operations of the other blocks: all stay as they
were. -/

namespace Sys2Proof.Machine

/-- t has the Staging Buffer and the Lane Writers of s. -/
@[simp] abbrev State.SameLanes (s t : State) : Prop := t.staging = s.staging ∧ t.lanes = s.lanes

theorem State.SameLanes.rfl {s : State} : s.SameLanes s := ⟨Eq.refl _, Eq.refl _⟩

theorem State.SameLanes.trans {s t u : State} (h : s.SameLanes t) (g : t.SameLanes u) : s.SameLanes u :=
  ⟨g.1.trans h.1, g.2.trans h.2⟩

theorem State.Reports.sameLanes {s t : State} (h : s.Reports t) : s.SameLanes t := by rw [h.eq]; exact .rfl
theorem State.BusOnly.sameLanes {s t : State} (h : s.BusOnly t) : s.SameLanes t := by rw [h.eq]; exact .rfl
theorem State.TableOnly.sameLanes {s t : State} (h : s.TableOnly t) : s.SameLanes t := by rw [h]; exact .rfl

/-- An operation that leaves the lanes alone, carried out only where a condition holds. -/
theorem State.SameLanes.ite {s t : State} {c : Prop} [Decidable c] (h : s.SameLanes t) :
    s.SameLanes (if c then t else s) := by
  split
  · exact h
  · exact .rfl

/-- An owner whose action leaves the lanes alone. -/
theorem State.carryOut_sameLanes {act : List Byte → State → State} (h : ∀ slot u, State.SameLanes u (act slot u))
    (code : Nat) (s : State) : s.SameLanes (s.carryOut code act) := by
  rcases s.carryOut_cases code act with e | ⟨slot, e⟩ <;> rw [e]
  · exact .rfl
  · exact h slot s.begun

/-- So does a fold of steps of which each leaves them alone. -/
theorem foldl_sameLanes {α : Type} {f : State → α → State} (h : ∀ u a, State.SameLanes u (f u a)) (xs : List α)
    (s : State) : s.SameLanes (xs.foldl f s) := by
  induction xs generalizing s with
  | nil => exact .rfl
  | cons x xs ih => exact (h s x).trans (ih _)

/-! ### The Timebase and the discipline -/

section
variable (s : State) (slot : List Byte)

@[simp] theorem stepTo_sameLanes (cause : StepCause) (total offset : Int) : s.SameLanes (stepTo cause total offset s) := by
  simp [stepTo]

@[simp] theorem stepBy_sameLanes (cause : StepCause) (offset ns : Int) : s.SameLanes (stepBy cause offset ns s) := by
  simp [stepBy]

theorem carrySetTime_sameLanes : s.SameLanes (carrySetTime slot s) := by
  unfold carrySetTime
  dsimp only
  split <;> simp

theorem carryAdjustTime_sameLanes : s.SameLanes (carryAdjustTime slot s) := by
  unfold carryAdjustTime
  dsimp only
  split
  · simp
  · split <;> simp [adjustStep, adjustSlew]

theorem carrySetFrequency_sameLanes : s.SameLanes (carrySetFrequency slot s) := by simp [carrySetFrequency]

@[simp] theorem State.causeOnChange_sameLanes (q : Quality) : s.SameLanes (s.causeOnChange q) := by
  rw [s.causeOnChange_bus q]; exact .rfl

@[simp] theorem State.offerTime_sameLanes (r : TimeRecord) : s.SameLanes (s.offerTime r) := by simp [State.offerTime]

theorem captureEdge_sameLanes (within : CycleFraction) : s.SameLanes (captureEdge within s) := by
  unfold captureEdge
  split <;> simp

theorem processEdge_sameLanes (e : Edge) : s.SameLanes (processEdge e s) := by
  unfold processEdge
  dsimp only
  split <;> simp

theorem takeCorrection_sameLanes (e : Edge) (m : Measured) (c : Correction) : s.SameLanes (takeCorrection e m c s) := by
  have applied : s.SameLanes (applyCorrection c s) := by cases c <;> simp [applyCorrection]
  unfold takeCorrection
  split
  · exact applied
  · simp [State.answerEdge]

@[simp] theorem completeAnswered_sameLanes : s.SameLanes (completeAnswered s) := by
  unfold completeAnswered
  split
  · split <;> simp [completeEdge]
  · simp

theorem carryDisciplineSet_sameLanes : s.SameLanes (carryDisciplineSet slot s) := by
  have applied (p : DisciplineParams) : s.SameLanes (applyDiscipline p s) := by
    unfold applyDiscipline disableDiscipline
    split
    · simp
    · split
      · dsimp only
        split <;> simp [State.handSlewRate]
      · simp [State.handSlewRate]
  unfold carryDisciplineSet
  split <;> simp [applied]

/-! ### The ports -/

@[simp] theorem portNotice_sameLanes (k : PortNo) (n : Nat) : s.SameLanes (portNotice k n s) := by simp [portNotice]

@[simp] theorem abortFrame_sameLanes (k : PortNo) : s.SameLanes (abortFrame k s) := by
  rw [abortFrame_eq]
  split <;> simp

theorem changeLink_sameLanes (k : PortNo) (link : LinkState) : s.SameLanes (changeLink k link s) := by
  unfold changeLink
  dsimp only
  split
  · exact .rfl
  · split <;> split <;> simp

theorem latchFrame_sameLanes (k : PortNo) (within : CycleFraction) : s.SameLanes (latchFrame k within s) := by
  unfold latchFrame
  dsimp only
  split <;> simp

@[simp] theorem countError_sameLanes (k : PortNo) : s.SameLanes (countError k s) := by
  unfold countError
  dsimp only
  split <;> simp

theorem endFrame_sameLanes (k : PortNo) (bytes : List Byte) : s.SameLanes (endFrame k bytes s) := by
  have good (f : Frame) (u : State) : u.SameLanes (goodFrame f u) := by
    unfold goodFrame
    dsimp only
    split
    · simp
    · split <;> simp
  have bad (f : Frame) (u : State) : u.SameLanes (badFrame f u) := by
    unfold badFrame
    dsimp only
    split <;> simp
  have checked (f : Frame) (u : State) : u.SameLanes (checkFrame f u) := by
    unfold checkFrame
    split
    · simp
    · split
      · simp
      · split
        · exact good f u
        · exact bad f u
  unfold endFrame
  dsimp only
  split
  · exact checked _ (s.setPort k _)
  · exact .rfl

theorem endWindow_sameLanes (k : PortNo) (start : Count) : s.SameLanes (endWindow k start s) := by
  unfold endWindow
  dsimp only
  split <;> simp

theorem carryPortSet_sameLanes : s.SameLanes (carryPortSet slot s) := by
  have applied (p : PortParams) : s.SameLanes (applyPort p s) := by
    unfold applyPort
    dsimp only
    split
    · simp
    · split <;> simp [enablePort, disablePort]
  unfold carryPortSet
  split <;> simp [applied]

theorem carryPortReadmit_sameLanes : s.SameLanes (carryPortReadmit slot s) := by
  have readmitted (k : PortNo) : s.SameLanes (readmit k s) := by
    unfold readmit
    dsimp only
    split
    · split <;> simp
    · simp
  unfold carryPortReadmit
  split <;> simp [readmitted]

/-! ### The Classifier -/

theorem classifyHead_sameLanes (k : PortNo) : s.SameLanes (classifyHead k s) := by
  have classified (f : Frame) (u : State) : u.SameLanes (classify f u) := by
    unfold classify setAsideUnmapped setAsideForeign handToTable enterInput
    split
    · dsimp only
      split <;> simp
    · dsimp only
      split <;> simp
    · split <;> simp
  unfold classifyHead
  dsimp only
  split
  · exact classified _ (s.setPort k _)
  · exact .rfl
  · exact .rfl

@[simp] theorem changeMaps_sameLanes (ports : List PortNo) (change : AddressMap → AddressMap) :
    s.SameLanes (changeMaps ports change s) :=
  foldl_sameLanes (f := fun t k => t.setMap k (change (t.map k))) (fun _ _ => .rfl) ports s

theorem carryMapAdd_sameLanes : s.SameLanes (carryMapAdd slot s) := by
  unfold carryMapAdd
  split
  · simp
  · split
    · simp
    · split <;> simp

theorem carryMapRemove_sameLanes : s.SameLanes (carryMapRemove slot s) := by
  unfold carryMapRemove
  dsimp only
  split
  · simp
  · split <;> simp

theorem carryPatternLoad_sameLanes : s.SameLanes (carryPatternLoad slot s) := by
  unfold carryPatternLoad
  dsimp only
  split <;> simp

theorem carryChannelSet_sameLanes : s.SameLanes (carryChannelSet slot s) := by
  unfold carryChannelSet
  split
  · simp
  · split
    · simp
    · split <;> simp

theorem carryChannelStart_sameLanes : s.SameLanes (carryChannelStart slot s) := by
  unfold carryChannelStart
  split
  · simp
  · dsimp only
    split <;> simp

/-! ### The Arbitration Table -/

theorem takeInput_sameLanes (k : PortNo) : s.SameLanes (takeInput k s) := by
  have refilled (u : State) : u.SameLanes (refillInput k u) := by
    unfold refillInput enterInput
    split <;> simp
  have taken (f : Classified) (u : State) : u.SameLanes (takeClassified f u) := by
    unfold takeClassified
    dsimp only
    split
    · simp
    · exact ((State.TableOnly.refl u).arbitrate f).sameLanes
  unfold takeInput
  split
  · exact (State.SameLanes.trans (t := s.setInput k none) .rfl (taken ..)).trans (refilled _)
  · exact .rfl

theorem takeExpiry_sameLanes : s.SameLanes (takeExpiry s) := by
  unfold takeExpiry
  split
  · exact ((State.TableOnly.refl s).removeEntry ..).sameLanes.ite
  · exact .rfl

theorem carryChannelStop_sameLanes : s.SameLanes (carryChannelStop slot s) := by
  unfold carryChannelStop
  split
  · simp
  · split
    · exact ((State.TableOnly.refl s).stopChannel _).sameLanes
    · simp

/-! ### The Request Engine and the Bus Interface -/

@[simp] theorem beginScan_sameLanes : s.SameLanes (beginScan s) := by
  unfold beginScan
  split <;> simp [readSlotState]

theorem slotReadDone_sameLanes (r : ReadOp) (bytes : List Byte) : s.SameLanes (slotReadDone r bytes s) := by
  have passed (scan : Scan) (u : State) : u.SameLanes (passSlot scan u) := by
    unfold passSlot
    split <;> simp [readSlotState]
  unfold slotReadDone slotWholeRead slotStateRead
  split
  · split <;> split <;> simp [takeSlot, passed]
  · simp
  · simp

@[simp] theorem completeRequest_sameLanes (a : Answer) : s.SameLanes (completeRequest slot a s) := by
  simp [completeRequest]

theorem writeArea_sameLanes (access : AreaWrite) : s.SameLanes (writeArea access s) := by
  have presented (v : BitVec 64) : s.SameLanes (presentArea v s) := by
    unfold presentArea
    dsimp only
    split <;> simp [setArea]
  cases access with
  | whole v => exact presented v
  | lowerHalf v => exact .rfl
  | upperHalf v => exact presented _

/-! ### The Status Block and the counter snapshot -/

theorem refreshStatus_sameLanes : s.SameLanes (refreshStatus s) := by
  simpa [refreshStatus] using foldl_sameLanes (fun u f => by simp) (statusFields s (s.bus.refreshCount + 1)) s

theorem copyCounter_sameLanes (c : SnapshotCopy) (name : Counter) : s.SameLanes (copyCounter c name s) := by
  unfold copyCounter afterCopy
  dsimp only
  split <;> split <;> simp

theorem carrySnapshot_sameLanes : s.SameLanes (carrySnapshot slot s) := by
  unfold carrySnapshot
  dsimp only
  split
  · split
    · simp
    · split <;> simp
  · simp

end

end Sys2Proof.Machine
end

section
/-! SUPPORT. The bounds of the Staging Buffer: what its operations and the Lane Writers' do to the holdings, the tallies and
the states of the lanes (R129 to R134, R144). -/

namespace Sys2Proof.Machine

/-! ### Tallies -/

theorem Tally.empty_coherent : Tally.empty.Coherent := by decide

theorem Tally.Coherent.add {t : Tally} (h : t.Coherent) (r : Record) (at' : DropTime) : (t.add r at').Coherent := by
  obtain ⟨few, _, _⟩ := h
  refine ⟨?_, by simp [Tally.add], by simp [Tally.add]⟩
  simp only [Tally.add]
  split <;> omega

/-- What a DROPPED record could not report stays tallied, with both times (R134). -/
theorem Tally.Coherent.afterReport {t : Tally} (h : t.Coherent) : t.afterReport.Coherent := by
  obtain ⟨few, first, last⟩ := h
  unfold Tally.afterReport
  split
  · exact Tally.empty_coherent
  · have left : t.dropped ≠ 0 := by omega
    have timed : t.last ≠ none := fun none' => left (first.mpr (last.mpr none'))
    refine ⟨?_, ?_, Iff.rfl⟩
    · simp only [saturated]; omega
    · simp only [timed, iff_false, saturated]; omega

/-! ### One lane's part of the buffer -/

section
variable {s t : State} {l : LaneNo} {g : StagingLane}

theorem StagingLane.shared_mono {a b : StagingLane} (allotment : a.allotment = b.allotment) (le : a.holding ≤ b.holding) :
    a.shared ≤ b.shared := by
  simp only [StagingLane.shared, allotment]
  omega

/-- A sum over the lanes, when one lane's part changes. -/
theorem State.overLanes_setStage (s : State) (l : LaneNo) (g : StagingLane) (f : StagingLane → Nat) :
    (s.setStage l g).overLanes f + f (s.stage l) = s.overLanes f + f g := by
  fin_cases l <;> simp [State.overLanes, State.stage, State.setStage] <;> omega

theorem State.poolBlocks_setStage (allotment : g.allotment = (s.stage l).allotment) :
    (s.setStage l g).poolBlocks = s.poolBlocks := by
  have sum := s.overLanes_setStage l g StagingLane.allotment
  rw [allotment] at sum
  simp only [State.poolBlocks]
  omega

/-- One lane's part changes, its partition kept: what it holds beyond its allotment is within its cap, and what that
gains is within the free pool. -/
theorem State.StagingBounded.setStage (h : s.StagingBounded) (allotment : g.allotment = (s.stage l).allotment)
    (cap : g.cap = (s.stage l).cap) (fits : g.shared ≤ g.cap) (room : g.shared ≤ (s.stage l).shared + s.freePool)
    (tally : g.tally.Coherent) (closed : (s.lane l).state = .closed → g.fifo = []) : (s.setStage l g).StagingBounded := by
  obtain ⟨total, pool, lanes⟩ := h
  have allotments := s.overLanes_setStage l g StagingLane.allotment
  have sum := s.overLanes_setStage l g StagingLane.shared
  have blocks := State.poolBlocks_setStage allotment
  unfold State.freePool at room
  refine ⟨by omega, by omega, fun j => ?_⟩
  obtain ⟨low, high, within, coherent, empty⟩ := lanes j
  rw [blocks, State.setStage_lane]
  by_cases same : l = j
  · subst same
    rw [State.setStage_stage_self, cap, allotment]
    exact ⟨low, high, cap ▸ fits, tally, closed⟩
  · rw [State.setStage_stage_of_ne s _ same]
    exact ⟨low, high, within, coherent, empty⟩

/-- In particular when the lane comes to hold no more. -/
theorem State.StagingBounded.lighten (h : s.StagingBounded) (allotment : g.allotment = (s.stage l).allotment)
    (cap : g.cap = (s.stage l).cap) (le : g.holding ≤ (s.stage l).holding) (tally : g.tally.Coherent)
    (closed : (s.lane l).state = .closed → g.fifo = []) : (s.setStage l g).StagingBounded := by
  have shared := StagingLane.shared_mono allotment le
  obtain ⟨_, _, within, _⟩ := h.2.2 l
  exact h.setStage allotment cap (by omega) (by omega) tally closed

/-- t has the Staging Buffer of s, and no lane has become CLOSED. -/
structure State.NoClose (s t : State) : Prop where
  staging : t.staging = s.staging
  closed : ∀ l : LaneNo, (t.lane l).state = .closed → (s.lane l).state = .closed

theorem State.NoClose.trans {u : State} (h : s.NoClose t) (g : t.NoClose u) : s.NoClose u :=
  ⟨g.staging.trans h.staging, fun l closed => h.closed l (g.closed l closed)⟩

theorem State.NoClose.stage (h : s.NoClose t) (l : LaneNo) : t.stage l = s.stage l := by
  simp only [State.stage, h.staging]

theorem State.SameLanes.lane (h : s.SameLanes t) (l : LaneNo) : t.lane l = s.lane l := by
  simp only [State.lane, h.2]

theorem State.SameLanes.noClose (h : s.SameLanes t) : s.NoClose t := ⟨h.1, fun l closed => by rwa [h.lane l] at closed⟩

theorem setLane_noClose {w : Lane} (h : w.state = .closed → (s.lane l).state = .closed) : s.NoClose (s.setLane l w) := by
  refine ⟨rfl, fun j closed => ?_⟩
  by_cases same : l = j
  · subst same
    rw [State.setLane_lane_self] at closed
    exact h closed
  · rwa [State.setLane_lane_of_ne s _ same] at closed

theorem State.StagingBounded.noClose (h : s.StagingBounded) (n : s.NoClose t) : t.StagingBounded := by
  obtain ⟨total, pool, lanes⟩ := h
  have same (f : StagingLane → Nat) : t.overLanes f = s.overLanes f := by simp only [State.overLanes, n.stage]
  have blocks : t.poolBlocks = s.poolBlocks := by simp only [State.poolBlocks, same]
  unfold State.StagingBounded
  rw [same, same, blocks]
  refine ⟨total, pool, fun l => ?_⟩
  obtain ⟨low, high, within, coherent, empty⟩ := lanes l
  rw [n.stage]
  exact ⟨low, high, within, coherent, fun closed => empty (n.closed l closed)⟩

theorem State.StagingBounded.same (h : s.StagingBounded) (g : s.SameLanes t) : t.StagingBounded := h.noClose g.noClose

theorem State.StagingBounded.bump (h : s.StagingBounded) (c : Counter) : (s.bump c).StagingBounded := h.same .rfl

theorem State.StagingBounded.answerWith (h : s.StagingBounded) (o : ReqOutcome) (fs : List (Nat × List Byte)) :
    (s.answerWith o fs).StagingBounded := h.same .rfl

theorem State.StagingBounded.noted (h : s.StagingBounded) (tag : Nat) (r : ReadOp) :
    ((s.dropRead tag).noteAge r).StagingBounded := h.same .rfl

/-- A lane changes and does not become CLOSED. -/
theorem State.StagingBounded.moveLane (h : s.StagingBounded) {w : Lane}
    (closed : w.state = .closed → (s.lane l).state = .closed) : (s.setLane l w).StagingBounded :=
  h.noClose (setLane_noClose closed)

/-- A lane becomes CLOSED when its FIFO is empty. -/
theorem State.StagingBounded.setLane (h : s.StagingBounded) (w : Lane)
    (closed : w.state = .closed → (s.stage l).fifo = []) : (s.setLane l w).StagingBounded := by
  obtain ⟨total, pool, lanes⟩ := h
  refine ⟨total, pool, fun j => ?_⟩
  obtain ⟨low, high, within, coherent, empty⟩ := lanes j
  refine ⟨low, high, within, coherent, ?_⟩
  by_cases same : l = j
  · subst same
    rw [State.setLane_lane_self]
    exact closed
  · rw [State.setLane_lane_of_ne s _ same]
    exact empty

/-! ### Pages -/

section
variable (s : State) (l : LaneNo)

theorem readOwner_noClose : s.NoClose (readOwner l s) := by
  unfold readOwner
  dsimp only
  split
  · refine State.NoClose.trans ?_ (State.BusOnly.refl.issueRead ..).sameLanes.noClose
    exact setLane_noClose id
  · exact State.SameLanes.rfl.noClose

theorem seekPage_noClose : s.NoClose (seekPage l s) := by
  unfold seekPage
  dsimp only
  split
  · exact readOwner_noClose s l
  · exact State.SameLanes.rfl.noClose

theorem reread_noClose : s.NoClose (reread l s) := by
  unfold reread
  split
  · exact readOwner_noClose s l
  · exact State.SameLanes.rfl.noClose

theorem notifyClose_noClose : s.NoClose (notifyClose l s) := by
  unfold notifyClose
  dsimp only
  split
  · refine State.NoClose.trans ?_ (State.BusOnly.refl.setCause _).sameLanes.noClose
    exact setLane_noClose id
  · exact setLane_noClose id

theorem closePage_noClose (reason : CloseReason) : s.NoClose (closePage l reason s) := by
  unfold closePage
  dsimp only
  split
  · rename_i p _
    have written := (State.BusOnly.refl.writeAt (s := s) (p.address + 4)
      (pageHeader l (s.lane l) p reason s.reading)).writeAt p.address (leBytes 4 2) |>.sameLanes
    have after : (s.lane l).afterClose.state = .closed → (s.lane l).state = .closed := id
    rw [← written.lane l] at after
    refine (written.noClose.trans (setLane_noClose after)).trans (State.NoClose.trans ?_ (notifyClose_noClose _ l))
    exact State.SameLanes.noClose (by simp)
  · exact State.SameLanes.rfl.noClose

theorem announceRest_noClose : s.NoClose (announceRest l s) := by
  unfold announceRest
  split
  · exact State.SameLanes.noClose (by simp)
  · exact State.SameLanes.rfl.noClose

theorem holdoffEnd_noClose : s.NoClose (holdoffEnd l s) := by
  unfold holdoffEnd
  dsimp only
  split
  · refine State.NoClose.trans ?_ (State.BusOnly.refl.setCause _).sameLanes.noClose
    exact setLane_noClose id
  · exact setLane_noClose id

theorem lingerEnd_noClose : s.NoClose (lingerEnd l s) :=
  (closePage_noClose s l .linger).trans (seekPage_noClose _ l)

end

end

/-! ### Records that join a FIFO and leave it -/

section
variable {s : State} {l : LaneNo} {r : Record}

/-- A DROPPED record formed takes one block, and its report leaves the tally coherent; a tally without times forms
none (R129, R134). -/
theorem formDropped_eq_setStage (l : LaneNo) (s : State) :
    ∃ g : StagingLane, formDropped l s = s.setStage l g ∧ g.allotment = (s.stage l).allotment
      ∧ g.cap = (s.stage l).cap ∧ g.holding ≤ (s.stage l).holding + 1
      ∧ ((s.stage l).tally.Coherent → g.tally.Coherent) := by
  have same : s = s.setStage l (s.stage l) := (s.setStage_stage l).symm
  unfold formDropped
  dsimp only
  split
  · refine ⟨_, rfl, rfl, rfl, ?_, fun h => h.afterReport⟩
    simp [StagingLane.holding, Record.blocks, Record.length]
  · exact ⟨s.stage l, same, rfl, rfl, Nat.le_succ _, id⟩
  · exact ⟨s.stage l, same, rfl, rfl, Nat.le_succ _, id⟩

/-- An admission adds no more than the record's need (R132). -/
theorem admitRecord_eq_setStage (l : LaneNo) (r : Record) (s : State) :
    ∃ g : StagingLane, admitRecord l r s = s.setStage l g ∧ g.allotment = (s.stage l).allotment
      ∧ g.cap = (s.stage l).cap ∧ g.holding ≤ (s.stage l).holding + (s.stage l).need r
      ∧ ((s.stage l).tally.Coherent → g.tally.Coherent) := by
  unfold admitRecord StagingLane.need
  dsimp only
  split
  · obtain ⟨g, eq, allotment, cap, le, tally⟩ := formDropped_eq_setStage l s
    refine ⟨{ g with fifo := g.fifo ++ [r] }, by rw [eq]; simp, allotment, cap, ?_, tally⟩
    simp only [StagingLane.holding, List.map_append, List.sum_append, List.map_cons, List.map_nil, List.sum_cons,
      List.sum_nil] at le ⊢
    omega
  · refine ⟨{ s.stage l with fifo := (s.stage l).fifo ++ [r] }, rfl, rfl, rfl, ?_, id⟩
    simp [StagingLane.holding]

variable (h : s.StagingBounded)
include h

theorem State.StagingBounded.admitRecord (met : s.needMet l ((s.stage l).need r) = true)
    (taking : (s.lane l).state ≠ .closed) : (admitRecord l r s).StagingBounded := by
  obtain ⟨g, eq, allotment, cap, le, tally⟩ := admitRecord_eq_setStage l r s
  obtain ⟨_, _, _, coherent, _⟩ := h.2.2 l
  rw [State.needMet, decide_eq_true_eq, StagingLane.sharedWith] at met
  have shared : g.shared ≤ (s.stage l).holding + (s.stage l).need r - (s.stage l).allotment := by
    rw [StagingLane.shared, allotment]
    omega
  rw [eq]
  exact h.setStage allotment cap (by omega) (by omega) (tally coherent) fun closed => absurd closed taking

theorem State.StagingBounded.dropRecord (l : LaneNo) (r : Record) : (dropRecord l r s).StagingBounded := by
  obtain ⟨_, _, _, coherent, empty⟩ := h.2.2 l
  refine State.StagingBounded.bump (h.lighten (l := l) (g := { s.stage l with
    tally := (s.stage l).tally.add r (s.dropTime r), dropTotal := (s.stage l).dropTotal + 1 }) rfl rfl ?_ ?_ ?_) _
  · exact Nat.le_refl _
  · exact coherent.add r _
  · exact empty

theorem State.StagingBounded.takeOffer (o : Offer) : (takeOffer o s).StagingBounded := by
  have staged (taking : (s.lane o.lane).state ≠ .closed) :
      (if s.needMet o.lane ((s.stage o.lane).need o.record) then Machine.admitRecord o.lane o.record s
        else Machine.dropRecord o.lane o.record s).StagingBounded := by
    split
    · exact h.admitRecord ‹_› taking
    · exact h.dropRecord ..
  unfold Machine.takeOffer
  split
  · exact h.bump _
  · exact h.bump _
  · exact staged (by simp [*])
  · exact staged (by simp [*])
  · exact h.dropRecord ..

/-- The head record leaves its FIFO for the page. -/
theorem State.StagingBounded.writeHead (l : LaneNo) : (writeHead l s).StagingBounded := by
  unfold Machine.writeHead
  dsimp only
  split
  · rename_i p r rest page fifo
    obtain ⟨_, _, _, coherent, empty⟩ := h.2.2 l
    have written : s.SameLanes (s.writeAt (p.address + BitVec.ofNat 64 p.used) (r.encode (s.lane l).serial)) :=
      (State.BusOnly.refl.writeAt ..).sameLanes
    have moved := h.noClose (written.noClose.trans
      (setLane_noClose (l := l) (w := (s.lane l).afterWrite p r.length s.count) (by rw [written.lane]; exact id)))
    refine State.StagingBounded.bump (State.StagingBounded.lighten (g := { s.stage l with fifo := rest }) moved ?_ ?_ ?_
      coherent ?_) _
    · simp
    · simp
    · simp [StagingLane.holding, fifo]
    · rw [State.setLane_lane_self]
      intro closed
      rw [empty closed] at fifo
      cases fifo
  · exact h
  · exact h

theorem State.StagingBounded.writeNext (l : LaneNo) : (writeNext l s).StagingBounded := by
  unfold Machine.writeNext
  split
  · split
    · exact h.writeHead l
    · exact h.noClose ((closePage_noClose s l .full).trans (seekPage_noClose _ l))
  · exact h
  · exact h

/-- A STARVED lane that finds a page becomes OPEN. -/
theorem State.StagingBounded.takePage (l : LaneNo) (address : Address) : (takePage l address s).StagingBounded := by
  refine State.StagingBounded.writeHead (h.moveLane ?_) l
  dsimp only
  split
  · intro opened
    cases opened
  · exact id

/-! ### A lane that closes, and one that opens -/

/-- The end of a close finds the FIFO empty. -/
theorem State.StagingBounded.endClose (drained : (s.stage l).fifo = []) (outcome : ReqOutcome) (lost : Nat) :
    (endClose l outcome lost s).StagingBounded := by
  have announced := (closePage_noClose s l .flush).trans (announceRest_noClose _ l)
  unfold Machine.endClose
  refine State.StagingBounded.answerWith (State.StagingBounded.setLane (h.noClose announced) _ fun _ => ?_) ..
  rw [announced.stage]
  exact drained

theorem State.StagingBounded.closeWithLoss (l : LaneNo) : (closeWithLoss l s).StagingBounded := by
  have emptied := h.lighten (l := l) (g := { s.stage l with
    fifo := [], tally := .empty
    dropTotal := (s.stage l).dropTotal + BitVec.ofNat 32 (lossCount (s.stage l).fifo) })
    rfl rfl (Nat.zero_le _) Tally.empty_coherent fun _ => rfl
  unfold Machine.closeWithLoss
  refine State.StagingBounded.endClose (State.StagingBounded.moveLane (emptied.same ?_) ?_) ?_ ..
  · exact .rfl
  · exact id
  · simp

theorem State.StagingBounded.carryLaneClose (slot : List Byte) : (carryLaneClose slot s).StagingBounded := by
  unfold Machine.carryLaneClose
  split
  · rename_i l discard _ _
    have emptied : (Machine.closeWithLoss l (s.setLane l { s.lane l with closeWritten := 0 })).StagingBounded := by
      refine State.StagingBounded.closeWithLoss (h.moveLane ?_) l
      exact id
    dsimp only
    split
    · exact h.answerWith ..
    · split
      · exact emptied
      · refine h.moveLane ?_
        intro closing
        cases closing
    · exact emptied
    · exact h
    · exact h
  · exact h.answerWith ..
  · exact h.answerWith ..

/-- A CLOSING lane with its FIFO empty: the final DROPPED record, of one block, fits its allotment (R134, R144). -/
theorem State.StagingBounded.drainEnd (closing : (s.lane l).state = .closing) (drained : (s.stage l).fifo = []) :
    (drainEnd l s).StagingBounded := by
  have formed : (formDropped l s).StagingBounded := by
    obtain ⟨g, eq, allotment, cap, le, tally⟩ := formDropped_eq_setStage l s
    obtain ⟨low, _, _, coherent, _⟩ := h.2.2 l
    have none' : (s.stage l).holding = 0 := by rw [StagingLane.holding, drained]; rfl
    have within : g.shared = 0 := by
      unfold Config.smallestAllotment at low
      simp only [StagingLane.shared]
      omega
    rw [eq]
    refine h.setStage allotment cap (by omega) (by omega) (tally coherent) fun closed => ?_
    rw [closing] at closed
    cases closed
  have written : (if ((formDropped l s).lane l).current = none then seekPage l (formDropped l s)
      else Machine.writeNext l (formDropped l s)).StagingBounded := by
    split
    · exact formed.noClose (seekPage_noClose ..)
    · exact formed.writeNext l
  unfold Machine.drainEnd
  dsimp only
  split
  · exact h.endClose drained ..
  · generalize (if ((formDropped l s).lane l).current = none then seekPage l (formDropped l s)
      else Machine.writeNext l (formDropped l s)) = u at written
    split
    · rename_i ended
      exact written.endClose ended.1 ..
    · exact written

theorem State.StagingBounded.carryLaneOpen (slot : List Byte) : (carryLaneOpen slot s).StagingBounded := by
  unfold Machine.carryLaneOpen
  split
  · exact h.answerWith ..
  · dsimp only
    split
    · exact h.answerWith ..
    · split
      · exact h.answerWith ..
      · split
        · exact h
        · refine h.noClose (State.NoClose.trans ?_ (State.BusOnly.refl.issueRead ..).sameLanes.noClose)
          exact setLane_noClose id

/-- A lane that becomes OPEN begins with its tally empty (R137). -/
theorem State.StagingBounded.pageListRead (l : LaneNo) (o : Opening) (pages : List Address) :
    (pageListRead l o pages s).StagingBounded := by
  unfold Machine.pageListRead
  dsimp only
  split
  · refine State.StagingBounded.answerWith (State.StagingBounded.moveLane h ?_) ..
    exact id
  · have opened := h.moveLane (l := l) (w := (s.lane l).openedWith o pages) (by intro opened; cases opened)
    refine State.StagingBounded.answerWith (State.StagingBounded.lighten (g := { s.stage l with
      tally := .empty, dropTotal := 0 }) opened rfl rfl (Nat.le_refl _) Tally.empty_coherent ?_) ..
    rw [State.setLane_lane_self]
    intro opened
    cases opened

theorem State.StagingBounded.ownerWordRead (l : LaneNo) (r : ReadOp) (word : BitVec 32) :
    (ownerWordRead l r word s).StagingBounded := by
  unfold Machine.ownerWordRead
  dsimp only
  split
  · exact h.takePage l _
  · split
    · refine State.StagingBounded.bump (State.StagingBounded.moveLane h ?_) _
      intro starved
      cases starved
    · refine h.moveLane ?_
      exact id
    · exact State.StagingBounded.closeWithLoss (h.bump _) l
    · exact h
    · exact h

theorem State.StagingBounded.ownerReadDone (l : LaneNo) (r : ReadOp) (word : BitVec 32) :
    (ownerReadDone l r word s).StagingBounded := by
  have noted := h.noted r.tag r
  unfold Machine.ownerReadDone
  dsimp only
  split
  · exact noted.ownerWordRead ..
  · exact noted.noClose (seekPage_noClose ..)

/-! ### The partition, and a read failure -/

omit h in
/-- The partition set lane by lane. -/
theorem stage_setPartitions (a c : LaneNo → Nat) (j : LaneNo) :
    ((List.finRange 4).foldl (fun t l => setPartition l (a l) (c l) t) s).stage j =
      { s.stage j with allotment := a j, cap := c j } := by
  show (setPartition 3 (a 3) (c 3) (setPartition 2 (a 2) (c 2) (setPartition 1 (a 1) (c 1)
    (setPartition 0 (a 0) (c 0) s)))).stage j = _
  fin_cases j <;> simp [setPartition, State.setStage_stage_of_ne]

omit h in
/-- Lanes that hold nothing, under a partition that fits the buffer (R130). -/
theorem State.stagingBounded_of_empty (low : ∀ l, Config.smallestAllotment ≤ (s.stage l).allotment)
    (total : s.overLanes StagingLane.allotment ≤ Config.stagingBlocks) (cap : ∀ l, (s.stage l).cap ≤ s.poolBlocks)
    (empty : ∀ l, (s.stage l).fifo = []) (tally : ∀ l, (s.stage l).tally.Coherent) : s.StagingBounded := by
  have none' (l : LaneNo) : (s.stage l).shared = 0 := by simp [StagingLane.shared, StagingLane.holding, empty l]
  refine ⟨total, ?_, fun l => ⟨low l, cap l, ?_, tally l, fun _ => empty l⟩⟩
  · simp [State.overLanes, none']
  · rw [none' l]
    exact Nat.zero_le _

/-- The new partition: every lane is CLOSED and holds nothing (R130). -/
theorem State.StagingBounded.carryPartitionSet (slot : List Byte) : (carryPartitionSet slot s).StagingBounded := by
  unfold Machine.carryPartitionSet
  dsimp only
  split
  · exact h.answerWith ..
  · rename_i closed
    split
    · exact h.answerWith ..
    · rename_i ranges
      simp only [List.any_eq_true, List.mem_finRange, true_and, decide_eq_true_eq, not_exists, not_not, not_or,
        Nat.not_lt] at closed ranges
      obtain ⟨low, total⟩ := ranges
      have sum : ((List.finRange 4).map (givenAllotment slot)).sum = givenAllotment slot 0 + givenAllotment slot 1
          + givenAllotment slot 2 + givenAllotment slot 3 := by
        show givenAllotment slot 0 + (givenAllotment slot 1 + (givenAllotment slot 2 + (givenAllotment slot 3 + 0))) = _
        omega
      refine State.StagingBounded.answerWith (State.stagingBounded_of_empty ?_ ?_ ?_ ?_ ?_) ..
      · intro l
        rw [stage_setPartitions]
        exact low l
      · simp only [State.overLanes, stage_setPartitions]
        omega
      · intro l
        simp only [State.poolBlocks, State.overLanes, stage_setPartitions]
        rw [sum]
        exact Nat.min_le_left ..
      · intro l
        obtain ⟨_, _, _, _, empty⟩ := h.2.2 l
        rw [stage_setPartitions]
        exact empty (closed l)
      · intro l
        obtain ⟨_, _, _, coherent, _⟩ := h.2.2 l
        rw [stage_setPartitions]
        exact coherent

theorem State.StagingBounded.failRead (r : ReadOp) : (failRead r s).StagingBounded := by
  have halted (w : Lane) (closed : w.halt.state = .closed) : w.state = .closed := by
    unfold Lane.halt at closed
    split at closed
    · cases closed
    · cases closed
    · cases closed
    · assumption
    · assumption
  unfold Machine.failRead
  split
  · exact h.same .rfl
  · refine h.noClose (State.NoClose.trans ?_ (State.BusOnly.refl.setCause _).sameLanes.noClose)
    refine ⟨rfl, fun l => ?_⟩
    fin_cases l <;> exact halted _

end

end Sys2Proof.Machine
end

section
/-! SUPPORT. Every command keeps the pool, the channels and the Staging Buffer within their bounds (R89, R91, R121, R129,
R130, R132, R144). -/

namespace Sys2Proof.Machine

/-! ### Commands that act only in some states -/

section
variable {s t : State}

theorem execPpsEdge_sameLanes {edge : EdgeKind} {within : CycleFraction} (e : execPpsEdge edge within s = .next t) :
    s.SameLanes t := by
  cases e
  exact (captureEdge_sameLanes s within).ite

theorem execEdgeProcess_sameLanes (e : execEdgeProcess s = .next t) : s.SameLanes t := by
  cases e
  split
  · exact (processEdge_sameLanes s _).ite
  · exact .rfl

theorem execDisciplineCorrection_sameLanes (e : execDisciplineCorrection s = .next t) : s.SameLanes t := by
  cases e
  split
  · split
    · exact takeCorrection_sameLanes ..
    · exact .rfl
    · exact .rfl
  · exact .rfl

theorem execHoldoverExpiry_sameLanes (e : execHoldoverExpiry s = .next t) : s.SameLanes t := by
  cases e
  exact State.SameLanes.ite (by simp [enterHoldover])

theorem execErrorWindowEnd_sameLanes {k : PortNo} (e : execErrorWindowEnd k s = .next t) : s.SameLanes t := by
  cases e
  split
  · exact (endWindow_sameLanes ..).ite
  · exact .rfl

theorem execCounterCopy_sameLanes (e : execCounterCopy s = .next t) : s.SameLanes t := by
  cases e
  split
  · split
    · exact copyCounter_sameLanes ..
    · exact .rfl
  · exact .rfl

theorem execBadRequest_sameLanes (e : execBadRequest s = .next t) : s.SameLanes t := by
  cases e
  split
  · split <;> simp
  · exact .rfl

theorem execRequestComplete_sameLanes (e : execRequestComplete s = .next t) : s.SameLanes t := by
  cases e
  split <;> simp

theorem execSlotReadDone_sameLanes {tag : Nat} {bytes : List Byte} (e : execSlotReadDone tag bytes s = .next t) :
    s.SameLanes t := by
  cases e
  split
  · exact (slotReadDone_sameLanes ..).ite
  · exact .rfl

variable (h : s.StagingBounded)
include h

theorem State.StagingBounded.carryOut (code : Nat) {act : List Byte → State → State}
    (acts : ∀ slot u, State.StagingBounded u → (act slot u).StagingBounded) : (s.carryOut code act).StagingBounded := by
  rcases s.carryOut_cases code act with e | ⟨slot, e⟩ <;> rw [e]
  · exact h
  · exact acts slot s.begun h

theorem State.StagingBounded.execNudge (e : execNudge s = .next t) : t.StagingBounded := by
  rw [← Host.Outcome.next.inj e]
  have scanned := h.same (beginScan_sameLanes s)
  generalize beginScan s = u at scanned
  induction List.finRange 4 generalizing u with
  | nil => exact scanned
  | cons l ls ih => exact ih _ (scanned.noClose (reread_noClose u l))

theorem State.StagingBounded.execSetEnables {v : BitVec 32} (e : execSetEnables v s = .next t) : t.StagingBounded := by
  cases e
  split
  · exact State.stagingBounded_reset.same .rfl
  · exact h.same .rfl

theorem State.StagingBounded.execPageListReadDone {tag : Nat} {bytes : List Byte}
    (e : execPageListReadDone tag bytes s = .next t) : t.StagingBounded := by
  cases e
  split
  · split
    · split
      · split
        · exact (h.noted ..).pageListRead ..
        · exact h
      · exact h
    · exact h
    · exact h
    · exact h
  · exact h

theorem State.StagingBounded.execCloseDrainEnd {l : LaneNo} (e : execCloseDrainEnd l s = .next t) : t.StagingBounded := by
  cases e
  split
  · rename_i drained
    exact h.drainEnd drained.1 drained.2
  · exact h

theorem State.StagingBounded.execOfferRecord {position : Nat} (e : execOfferRecord position s = .next t) :
    t.StagingBounded := by
  cases e
  split
  · split
    · rename_i o _ _
      have begun : ({ s with offers := s.offers.eraseIdx position } : State).StagingBounded := h.same .rfl
      exact (begun.takeOffer o).noClose (seekPage_noClose ..)
    · exact h
  · exact h

theorem State.StagingBounded.execOwnerWordReadDone {tag : Nat} {word : BitVec 32}
    (e : execOwnerWordReadDone tag word s = .next t) : t.StagingBounded := by
  cases e
  split
  · split
    · split
      · exact h
      · exact h.ownerReadDone ..
    · exact h
    · exact h
    · exact h
  · exact h

theorem State.StagingBounded.execReadFailure {tag : Nat} (e : execReadFailure tag s = .next t) : t.StagingBounded := by
  cases e
  split
  · split
    · exact h
    · exact h.failRead _
  · exact h

theorem State.StagingBounded.execReadLimitExpiry {tag : Nat} (e : execReadLimitExpiry tag s = .next t) :
    t.StagingBounded := by
  cases e
  split
  · split
    · exact h.failRead _
    · exact h
  · exact h

/-- What a command does only where a condition holds. -/
theorem State.StagingBounded.ite {u : State} {c : Prop} [Decidable c] (g : u.StagingBounded) :
    (if c then u else s).StagingBounded := by
  split
  · exact g
  · exact h

/-! ### Every command -/

theorem exec_keeps_stagingBounded (c : Instr) (e : exec c s = .next t) : t.StagingBounded := by
  cases c with
  | coldReset => cases e; exact State.stagingBounded_reset.same .rfl
  | functionReset => cases e; exact State.stagingBounded_reset.same .rfl
  | oscillatorCycleEnd => cases e; exact h.same .rfl
  | linkChange port link => cases e; exact h.same (changeLink_sameLanes s port link)
  | frameFirstByte port within => cases e; exact h.same (latchFrame_sameLanes s port within)
  | endOfFrame port bytes => cases e; exact h.same (endFrame_sameLanes s port bytes)
  | errorWindowEnd port => exact h.same (execErrorWindowEnd_sameLanes e)
  | classifyFrame port => cases e; exact h.same (classifyHead_sameLanes s port)
  | tableTakeFrame port => cases e; exact h.same (takeInput_sameLanes s port)
  | expiry => cases e; exact h.same (takeExpiry_sameLanes s)
  | ppsEdge edge within => exact h.same (execPpsEdge_sameLanes e)
  | edgeProcess => exact h.same (execEdgeProcess_sameLanes e)
  | disciplineCorrection => exact h.same (execDisciplineCorrection_sameLanes e)
  | edgeComplete => cases e; exact h.same (completeAnswered_sameLanes s)
  | holdoverExpiry => exact h.same (execHoldoverExpiry_sameLanes e)
  | setTime => cases e; exact h.same (State.carryOut_sameLanes (fun slot u => carrySetTime_sameLanes u slot) ..)
  | adjustTime => cases e; exact h.same (State.carryOut_sameLanes (fun slot u => carryAdjustTime_sameLanes u slot) ..)
  | setFrequency => cases e; exact h.same (State.carryOut_sameLanes (fun slot u => carrySetFrequency_sameLanes u slot) ..)
  | disciplineSet => cases e; exact h.same (State.carryOut_sameLanes (fun slot u => carryDisciplineSet_sameLanes u slot) ..)
  | portSet => cases e; exact h.same (State.carryOut_sameLanes (fun slot u => carryPortSet_sameLanes u slot) ..)
  | portReadmit => cases e; exact h.same (State.carryOut_sameLanes (fun slot u => carryPortReadmit_sameLanes u slot) ..)
  | mapAdd => cases e; exact h.same (State.carryOut_sameLanes (fun slot u => carryMapAdd_sameLanes u slot) ..)
  | mapRemove => cases e; exact h.same (State.carryOut_sameLanes (fun slot u => carryMapRemove_sameLanes u slot) ..)
  | patternLoad => cases e; exact h.same (State.carryOut_sameLanes (fun slot u => carryPatternLoad_sameLanes u slot) ..)
  | channelSet => cases e; exact h.same (State.carryOut_sameLanes (fun slot u => carryChannelSet_sameLanes u slot) ..)
  | channelStart => cases e; exact h.same (State.carryOut_sameLanes (fun slot u => carryChannelStart_sameLanes u slot) ..)
  | channelStop => cases e; exact h.same (State.carryOut_sameLanes (fun slot u => carryChannelStop_sameLanes u slot) ..)
  | laneOpen => cases e; exact h.carryOut _ fun slot _ g => g.carryLaneOpen slot
  | pageListReadDone read bytes => exact h.execPageListReadDone e
  | laneClose => cases e; exact h.carryOut _ fun slot _ g => g.carryLaneClose slot
  | closeDrainEnd lane => exact h.execCloseDrainEnd e
  | partitionSet => cases e; exact h.carryOut _ fun slot _ g => g.carryPartitionSet slot
  | countersSnapshot => cases e; exact h.same (State.carryOut_sameLanes (fun slot u => carrySnapshot_sameLanes u slot) ..)
  | counterCopy => exact h.same (execCounterCopy_sameLanes e)
  | badRequest => exact h.same (execBadRequest_sameLanes e)
  | scanTimer => cases e; exact h.same (.ite (beginScan_sameLanes { s with bus := { s.bus with scanTaken := true } }))
  | nudge => exact h.execNudge e
  | slotReadDone read bytes => exact h.same (execSlotReadDone_sameLanes e)
  | requestComplete => exact h.same (execRequestComplete_sameLanes e)
  | areaBaseWrite access => cases e; exact h.same (writeArea_sameLanes s access)
  | setEnables value => exact h.execSetEnables e
  | causeRead => cases e; exact h.same .rfl
  | ignoredRegisterWrite offset value => cases e; exact h
  | statusRefresh =>
    cases e; exact h.same (.ite (refreshStatus_sameLanes { s with bus := { s.bus with refreshTaken := true } }))
  | readFailure read => exact h.execReadFailure e
  | readLimitExpiry read => exact h.execReadLimitExpiry e
  | offerRecord position => exact h.execOfferRecord e
  | ownerWordReadDone read word => exact h.execOwnerWordReadDone e
  | starvedReread lane => cases e; exact h.ite (h.noClose (reread_noClose s lane))
  | writeRecord lane => cases e; exact h.ite (h.writeNext lane)
  | lingerExpiry lane => cases e; exact h.ite (h.noClose (lingerEnd_noClose s lane))
  | holdoffExpiry lane => cases e; exact h.ite (h.noClose (holdoffEnd_noClose s lane))

end

theorem step_keeps_stagingBounded {s t : State} (h : s.StagingBounded) (e : step s = .next t) : t.StagingBounded := by
  rcases step_next_cases e with rfl | ⟨c, rest, _, he⟩
  · exact h
  · exact exec_keeps_stagingBounded (s := { s with pending := rest }) h c he

/-- Settles O54: what a command can do to the pool and to the Staging Buffer, and that each of it keeps the bounds. -/
theorem stepKeepsPoolAndStagingBounded : Obligations.StepKeepsPoolAndStagingBounded :=
  ⟨fun _ _ h e => step_keeps_poolBounded h e, fun _ _ h e => step_keeps_stagingBounded h e⟩

end Sys2Proof.Machine
end

section
/-! SUPPORT. The order of the Expiry Queue: serial comparisons within half a range as comparisons of numbers, and what an
insertion makes of a queue in order (R115). -/

namespace Sys2Proof.Machine

/-! ### The order of two entries -/

/-- Entry a stands before entry b, as the invariant of R115 writes it. -/
abbrev Entry.Precedes (a b : Entry) : Prop :=
  (1 ≤ (b.deadline - a.deadline).toNat ∧ (b.deadline - a.deadline).toNat ≤ 2 ^ 63 - 1)
    ∨ a.deadline = b.deadline ∧ 1 ≤ (b.order - a.order).toNat ∧ (b.order - a.order).toNat ≤ 2 ^ 31 - 1

theorem Entry.before_iff (a b : Entry) : a.before b = true ↔ a.Precedes b := by
  simp only [Entry.before, deadlineBefore, orderBefore, Bool.or_eq_true, Bool.and_eq_true, decide_eq_true_eq]

/-- How far an entry's deadline lies behind a base, and its creation order before another. -/
def Entry.due (e : Entry) (base : Count) : Nat := (e.deadline - base).toNat
def Entry.age (e : Entry) (now : BitVec 32) : Nat := (now - e.order).toNat

section
variable {base : Count} {now : BitVec 32} {a b : Entry}

/-- Within half the ranges, an entry stands before another when it is due earlier, or is due at the same count and was
created earlier. -/
theorem Entry.precedes_iff (ha : a.due base < 2 ^ 63) (hb : b.due base < 2 ^ 63) (olda : a.age now ≤ 2 ^ 31 - 1)
    (oldb : b.age now ≤ 2 ^ 31 - 1) :
    a.Precedes b ↔ a.due base < b.due base ∨ a.due base = b.due base ∧ b.age now < a.age now := by
  unfold Entry.due Entry.age at *
  have deadlines : (1 ≤ (b.deadline - a.deadline).toNat ∧ (b.deadline - a.deadline).toNat ≤ 2 ^ 63 - 1)
      ↔ (a.deadline - base).toNat < (b.deadline - base).toNat := by bv_omega
  have orders : (1 ≤ (b.order - a.order).toNat ∧ (b.order - a.order).toNat ≤ 2 ^ 31 - 1)
      ↔ (now - b.order).toNat < (now - a.order).toNat := by bv_omega
  have same : a.deadline = b.deadline ↔ (a.deadline - base).toNat = (b.deadline - base).toNat := by bv_omega
  unfold Entry.Precedes
  rw [deadlines, orders, same]

end

/-! ### An insertion -/

/-- A queue whose entries lie within half the ranges stays in order when an entry joins it that is created now. -/
theorem insertEntry_ordered {base : Count} {now : BitVec 32} {e : Entry} {es : List Entry}
    (ordered : es.Pairwise Entry.Precedes) (within : ∀ x ∈ es, x.due base < 2 ^ 63)
    (ages : ∀ x ∈ es, 1 ≤ x.age now ∧ x.age now ≤ 2 ^ 31 - 1) (due : e.due base < 2 ^ 63) (fresh : e.order = now) :
    (insertEntry e es).Pairwise Entry.Precedes := by
  have young : e.age now = 0 := by simp [Entry.age, fresh]
  have compare {x : Entry} (hx : x ∈ es) : e.Precedes x ↔ e.due base < x.due base := by
    rw [Entry.precedes_iff due (within x hx) (by omega) (ages x hx).2]
    omega
  induction es with
  | nil => exact List.pairwise_singleton ..
  | cons x xs ih =>
    obtain ⟨first, rest⟩ := List.pairwise_cons.mp ordered
    obtain ⟨withinX, withinXs⟩ := List.forall_mem_cons.mp within
    obtain ⟨agesX, agesXs⟩ := List.forall_mem_cons.mp ages
    unfold insertEntry
    split
    · rename_i before
      rw [Entry.before_iff, compare List.mem_cons_self] at before
      refine List.pairwise_cons.mpr ⟨fun y hy => (compare hy).mpr ?_, ordered⟩
      rcases List.mem_cons.mp hy with rfl | hy
      · exact before
      · have later := (Entry.precedes_iff withinX (withinXs y hy) agesX.2 (agesXs y hy).2).mp (first y hy)
        omega
    · rename_i after
      rw [Entry.before_iff, compare List.mem_cons_self] at after
      refine List.pairwise_cons.mpr ⟨fun y hy => ?_, ih rest withinXs agesXs fun hx => compare (List.mem_cons_of_mem _ hx)⟩
      rcases List.mem_cons.mp ((insertEntry_perm e xs).mem_iff.mp hy) with rfl | hy
      · exact (Entry.precedes_iff withinX due agesX.2 (by omega)).mpr (by omega)
      · exact first y hy

/-- An insertion that a test refuses does not change what the test keeps. -/
theorem filter_insertEntry_of_false {e : Entry} {p : Entry → Bool} (es : List Entry) (h : p e = false) :
    (insertEntry e es).filter p = es.filter p := by
  induction es with
  | nil => simp [insertEntry, h]
  | cons x xs ih =>
    unfold insertEntry
    split
    · rw [List.filter_cons, if_neg (by simp [h])]
    · rw [List.filter_cons, List.filter_cons, ih]

/-! ### A queue on its way -/

/-- An entry is due within half the range of a base. -/
def Entry.near (base : Count) (e : Entry) : Bool := decide (e.due base < 2 ^ 63)

/-- A queue and the next creation order, some entries into a command: the entries due within half the range of the base
stand in order, and all were created before, by less than half the range. -/
structure QueueWithin (base : Count) (created : Nat) (es : List Entry) (now : BitVec 32) : Prop where
  ordered : (es.filter (Entry.near base)).Pairwise Entry.Precedes
  ages : ∀ e ∈ es, 1 ≤ e.age now ∧ e.age now ≤ 2 ^ 31 - 3 + created

section
variable {base : Count} {n : Nat} {es xs : List Entry} {now : BitVec 32}

theorem QueueWithin.fewer (h : QueueWithin base n es now) (sub : xs.Sublist es) : QueueWithin base n xs now :=
  ⟨h.ordered.sublist (sub.filter _), fun e he => h.ages e (sub.subset he)⟩

theorem QueueWithin.more (h : QueueWithin base n es now) {m : Nat} (le : n ≤ m) : QueueWithin base m es now := by
  refine ⟨h.ordered, fun e he => ?_⟩
  have := h.ages e he
  omega

/-- Entries changed in place, their deadlines and creation orders kept. -/
theorem QueueWithin.map (h : QueueWithin base n es now) {g : Entry → Entry} (deadline : ∀ e, (g e).deadline = e.deadline)
    (order : ∀ e, (g e).order = e.order) : QueueWithin base n (es.map g) now := by
  have near : Entry.near base ∘ g = Entry.near base := by
    funext e
    exact decide_eq_decide.mpr (by rw [Entry.due, deadline]; rfl)
  refine ⟨?_, fun e he => ?_⟩
  · rw [List.filter_map, near, List.pairwise_map]
    simpa only [Entry.Precedes, deadline, order] using h.ordered
  · obtain ⟨x, hx, rfl⟩ := List.mem_map.mp he
    simpa only [Entry.age, order] using h.ages x hx

/-- A queue all of whose entries are due within half the range is in order. -/
theorem QueueWithin.whole (h : QueueWithin base n es now) (near : ∀ e ∈ es, e.near base = true) :
    es.Pairwise Entry.Precedes := by
  rw [← List.filter_eq_self.mpr near]
  exact h.ordered

/-- An entry created now joins it; the next creation order moves on. -/
theorem QueueWithin.insert (h : QueueWithin base n es now) (few : n ≤ 1) (near : ∀ e ∈ es, e.near base = true)
    (e : Entry) : QueueWithin base (n + 1) (insertEntry { e with order := now } es) (now + 1) := by
  have perm := insertEntry_perm { e with order := now } es
  have within : ∀ x ∈ es, x.due base < 2 ^ 63 := fun x hx => of_decide_eq_true (near x hx)
  have ages : ∀ x ∈ es, 1 ≤ x.age now ∧ x.age now ≤ 2 ^ 31 - 1 := fun x hx => by
    have := h.ages x hx
    omega
  constructor
  · by_cases due : ({ e with order := now } : Entry).due base < 2 ^ 63
    · exact (insertEntry_ordered (h.whole near) within ages due rfl).sublist List.filter_sublist
    · have same : (insertEntry { e with order := now } es).filter (Entry.near base) = es.filter (Entry.near base) := 
        filter_insertEntry_of_false es (decide_eq_false due)
      rw [same]
      exact h.ordered
  · intro x hx
    rcases List.mem_cons.mp (perm.mem_iff.mp hx) with rfl | hx
    · unfold Entry.age
      bv_omega
    · have := h.ages x hx
      unfold Entry.age at *
      bv_omega

end

end Sys2Proof.Machine
end

section
/-! SUPPORT. Every command keeps the Expiry Queue in its order (R90, R115). -/

namespace Sys2Proof.Machine

/-! ### The Table's operations -/

/-- The queue of a state, some entries into a command. -/
structure State.QueueWithin (s : State) (base : Count) (created : Nat) : Prop where
  queue : Machine.QueueWithin base created s.entries s.nextOrder

/-- A request leaves at once, or is created after an eviction or without one. -/
theorem requestEntry_cases (frame : FrameTag) (e : Entry) (filling : Option (BitVec 32)) (s : State) :
    (requestEntry frame e filling s = emitAtOnce frame e s)
      ∨ ∃ t : State, requestEntry frame e filling s = createEntry e t ∧ t.entries.Sublist s.entries
          ∧ t.nextOrder = s.nextOrder := by
  unfold requestEntry
  split
  · split
    · exact .inr ⟨_, rfl, List.erase_sublist, rfl⟩
    · exact .inl rfl
  · split
    · split
      · exact .inr ⟨_, rfl, List.erase_sublist, rfl⟩
      · exact .inl rfl
    · exact .inr ⟨_, rfl, List.Sublist.refl _, rfl⟩

section
variable {s : State} {base : Count} {n : Nat}

theorem State.QueueWithin.more (h : s.QueueWithin base n) {m : Nat} (le : n ≤ m) : s.QueueWithin base m :=
  ⟨h.queue.more le⟩

section
variable (h : s.QueueWithin base n)
include h

theorem State.QueueWithin.setNext (ch : ChannelNo) (next : Option Nat) : (setNext ch next s).QueueWithin base n := ⟨h.queue⟩
theorem State.QueueWithin.bump (c : Counter) : (s.bump c).QueueWithin base n := ⟨h.queue⟩
theorem State.QueueWithin.offerOwn (f : Classified) (r : Record) : (offerOwn f r s).QueueWithin base n := ⟨h.queue⟩
theorem State.QueueWithin.heartbeatRecord (f : Classified) (flags : ArrivalFlags) :
    (heartbeatRecord f flags s).QueueWithin base n := ⟨h.queue⟩
theorem State.QueueWithin.removeEntry (e : Entry) (why : Removal) (frame : Option FrameTag) :
    (removeEntry e why frame s).QueueWithin base n := ⟨h.queue.fewer List.erase_sublist⟩
theorem State.QueueWithin.erase (e : Entry) : ({ s with entries := s.entries.erase e } : State).QueueWithin base n :=
  ⟨h.queue.fewer List.erase_sublist⟩

end

/-- An entry asked for, when every entry that stays is due within half the range. -/
theorem State.QueueWithin.requestEntry (h : s.QueueWithin base n) (few : n ≤ 1) (frame : FrameTag) (e : Entry)
    (filling : Option (BitVec 32))
    (near : ∀ y ∈ s.entries, y ∈ (requestEntry frame e filling s).entries → y.near base = true) :
    (requestEntry frame e filling s).QueueWithin base (n + 1) := by
  rcases requestEntry_cases frame e filling s with eq | ⟨t, eq, sub, order⟩
  · rw [eq]
    exact ⟨(h.more (Nat.le_succ n)).queue⟩
  · rw [eq] at near ⊢
    have kept := h.queue.fewer sub
    rw [← order] at kept
    refine ⟨kept.insert few (fun y hy => near y (sub.subset hy) ?_) e⟩
    exact (insertEntry_perm ..).mem_iff.mpr (List.mem_cons_of_mem _ hy)

theorem State.QueueWithin.publish (h : s.QueueWithin base n) (few : n ≤ 1) (f : Classified) (flags : ArrivalFlags)
    (first k : Nat) (filling : Option (BitVec 32))
    (near : ∀ y ∈ s.entries, y ∈ (publish f flags first k filling s).entries → y.near base = true) :
    (publish f flags first k filling s).QueueWithin base (n + 1) := by
  cases mode : (s.channel f.channel).settings.mode with
  | paired =>
    rw [publish_paired _ _ _ _ _ _ mode] at near ⊢
    exact ⟨(h.requestEntry few _ _ _ near).queue⟩
  | single =>
    rw [publish_single _ _ _ _ _ _ mode]
    exact ⟨(h.more (Nat.le_succ n)).queue⟩

theorem State.QueueWithin.flushEntries (h : s.QueueWithin base n) (frame : Option FrameTag) (es : List Entry) :
    (flushEntries frame es s).QueueWithin base n := by
  rw [flushEntries_eq]
  exact ⟨h.queue.fewer (List.diff_sublist ..)⟩

theorem State.QueueWithin.replaceEntry (h : s.QueueWithin base n) {e p : Entry} (deadline : p.deadline = e.deadline)
    (order : p.order = e.order) : ({ s with entries := replaceEntry s.entries e p } : State).QueueWithin base n := by
  refine ⟨h.queue.map (fun y => ?_) fun y => ?_⟩
  · split
    · simp [*]
    · rfl
  · split
    · simp [*]
    · rfl

theorem State.QueueWithin.rejectFrame (h : s.QueueWithin base n) (f : Classified) (flags : ArrivalFlags) :
    (rejectFrame f flags s).QueueWithin base n := by
  unfold Machine.rejectFrame
  split
  · exact h.offerOwn ..
  · exact h

end

/-! ### The cases of a frame -/

section
variable {s : State} {base : Count} {f : Classified} (h : s.QueueWithin base 0)
  (start : ∀ y ∈ s.entries, y.near base = true)
include h start

omit start in
theorem State.QueueWithin.passOver (next newNext : Nat) : (passOver f next newNext s).QueueWithin base 0 :=
  h.flushEntries ..

omit h in
/-- Entries that have left do not count. -/
theorem near_flushEntries (frame : Option FrameTag) (es : List Entry) :
    ∀ y ∈ (flushEntries frame es s).entries, y.near base = true := by
  rw [flushEntries_entries]
  exact fun y hy => start y ((List.diff_sublist ..).subset hy)

theorem State.QueueWithin.revealGap (m next a : Nat) : (revealGap f m next a s).QueueWithin base 1 :=
  (h.passOver ..).requestEntry (Nat.zero_le _) _ _ _ fun y hy _ =>
    near_flushEntries start _ _ y hy

/-- What is published first in a command. -/
theorem State.QueueWithin.publishFirst (flags : ArrivalFlags) (first k : Nat) (filling : Option (BitVec 32)) :
    (Machine.publish f flags first k filling s).QueueWithin base 1 :=
  h.publish (Nat.zero_le _) f flags first k filling fun y hy _ => start y hy

theorem State.QueueWithin.takeResync (m next : Nat) (direction : Direction) :
    (takeResync f m next direction s).QueueWithin base 1 := by
  have flushed := h.flushEntries (some (f.tag s)) (s.collection f.channel)
  have near := near_flushEntries start (some (f.tag s)) (s.collection f.channel)
  have told (r : Record) := flushed.offerOwn f r
  unfold Machine.takeResync
  dsimp only
  refine State.QueueWithin.bump (State.QueueWithin.setNext ?_ ..) _
  split
  · exact ((told _).more (Nat.zero_le 1)).heartbeatRecord ..
  · exact (told _).publishFirst near ..

theorem State.QueueWithin.takeHeartbeat (m next : Nat) : (takeHeartbeat f m next s).QueueWithin base 1 := by
  have same := h.more (Nat.zero_le 1)
  unfold Machine.takeHeartbeat
  dsimp only
  split
  · exact h.takeResync start ..
  · split
    · exact same.heartbeatRecord ..
    · split
      · exact ((h.revealGap start ..).heartbeatRecord ..).setNext ..
      · exact (same.heartbeatRecord ..).bump _

omit h in
/-- An entry changed in place is due when it was. -/
theorem near_replaceEntry {e p : Entry} (deadline : p.deadline = e.deadline) :
    ∀ y ∈ replaceEntry s.entries e p, y.near base = true := by
  intro y hy
  obtain ⟨x, hx, rfl⟩ := List.mem_map.mp hy
  have due := start x hx
  split
  · rename_i same
    rw [same] at due
    rw [Entry.near, Entry.due, deadline]
    exact due
  · exact due

/-- A fill: the GAP entry changed in place keeps its place, and at most two entries join the queue (R101). -/
theorem State.QueueWithin.takeFill (e : Entry) (m : Nat)
    (final : ∀ y ∈ (takeFill f e m s).entries, y.near base = true) : (takeFill f e m s).QueueWithin base 2 := by
  have replaced {p : Entry} (deadline : p.deadline = e.deadline) (order : p.order = e.order) :
      ({ s with entries := Machine.replaceEntry s.entries e p } : State).QueueWithin base 0 :=
    h.replaceEntry deadline order
  revert final
  unfold Machine.takeFill
  dsimp only
  split
  · intro _
    refine State.QueueWithin.more (State.QueueWithin.publishFirst (h.erase e) ?_ ..) (by decide)
    exact fun y hy => start y (List.mem_of_mem_erase hy)
  · split
    · intro _
      refine State.QueueWithin.more (State.QueueWithin.publishFirst ?_ ?_ ..) (by decide)
      · exact replaced rfl rfl
      · exact near_replaceEntry start rfl
    · split
      · intro _
        refine State.QueueWithin.more (State.QueueWithin.publishFirst ?_ ?_ ..) (by decide)
        · exact replaced rfl rfl
        · exact near_replaceEntry start rfl
      · intro final
        refine State.QueueWithin.publish (State.QueueWithin.requestEntry ?_ (Nat.zero_le 1) _ _ _ ?_) (Nat.le_refl 1) _ _ _ _ _
          fun y _ hy => final y hy
        · exact replaced rfl rfl
        · intro y hy _
          refine near_replaceEntry start ?_ y hy
          rfl

theorem State.QueueWithin.takeBehind (m : Nat) (final : ∀ y ∈ (takeBehind f m s).entries, y.near base = true) :
    (takeBehind f m s).QueueWithin base 2 := by
  have same := h.more (Nat.zero_le 2)
  revert final
  unfold Machine.takeBehind
  split
  · split
    · exact h.takeFill start _ m
    · intro _
      split
      · exact (same.bump _).rejectFrame ..
      · exact ((same.offerOwn ..).erase _).bump _
  · intro _
    exact (same.bump _).rejectFrame ..

omit h start in
@[simp] theorem setNext_entries (ch : ChannelNo) (next : Option Nat) : (setNext ch next s).entries = s.entries := rfl

omit h in
/-- A frame ahead asks for its GAP entry and for that of its publication. -/
theorem State.QueueWithin.takeAhead (h : s.QueueWithin base 0) (m next a : Nat)
    (final : ∀ y ∈ (takeAhead f m next a s).entries, y.near base = true) : (takeAhead f m next a s).QueueWithin base 2 := by
  unfold Machine.takeAhead at final ⊢
  rw [setNext_entries] at final
  exact ((h.revealGap start m next a).publish (Nat.le_refl 1) f {} f.s f.c none fun y _ hy => final y hy).setNext ..

/-- What is published after some entries have been passed over. -/
theorem State.QueueWithin.publishPassed (next newNext : Nat) (flags : ArrivalFlags) (first k : Nat) :
    (Machine.publish f flags first k none (Machine.passOver f next newNext s)).QueueWithin base 1 :=
  (h.passOver next newNext).publishFirst (near_flushEntries start _ _) ..

/-- Whatever the case of a frame, at most two entries join the queue. -/
theorem State.QueueWithin.arbitrate (final : ∀ y ∈ (arbitrate f s).entries, y.near base = true) :
    (arbitrate f s).QueueWithin base 2 := by
  revert final
  unfold Machine.arbitrate
  dsimp only
  split
  · intro _
    unfold takeStart
    refine State.QueueWithin.setNext ?_ ..
    split
    · exact (h.more (Nat.zero_le 2)).heartbeatRecord ..
    · exact (h.publishFirst start ..).more (by decide)
  · exact fun _ => (h.takeHeartbeat start ..).more (by decide)
  · exact fun _ => ((h.publishPassed start ..).more (by decide)).setNext ..
  · exact State.QueueWithin.takeAhead start h _ _ _
  · exact fun _ => (h.takeResync start ..).more (by decide)
  · exact fun _ => ((h.publishPassed start ..).more (by decide)).setNext ..
  · exact h.takeBehind start _

end

/-! ### Every command -/

section
variable {s t : State} {base : Count}

theorem State.SamePool.queueWithin {n : Nat} (g : s.SamePool t) (h : s.QueueWithin base n) : t.QueueWithin base n := by
  obtain ⟨_, entries, order⟩ := g
  refine ⟨?_⟩
  rw [entries, order]
  exact h.queue

variable (h : s.QueueWithin base 0)
include h

theorem State.QueueWithin.takeInput (k : PortNo) (start : ∀ y ∈ s.entries, y.near base = true)
    (final : ∀ y ∈ (takeInput k s).entries, y.near base = true) : (takeInput k s).QueueWithin base 2 := by
  have same := h.more (Nat.zero_le 2)
  revert final
  unfold Machine.takeInput
  split
  · rename_i f _
    intro final
    have refilled := refillInput_samePool k (takeClassified f (s.setInput k none))
    rw [refilled.2.1] at final
    refine refilled.queueWithin ?_
    revert final
    unfold takeClassified
    dsimp only
    split
    · intro _
      exact ⟨same.queue⟩
    · exact State.QueueWithin.arbitrate (s := s.setInput k none) ⟨h.queue⟩ start
  · exact fun _ => same

theorem State.QueueWithin.takeExpiry : (takeExpiry s).QueueWithin base 0 := by
  unfold Machine.takeExpiry
  split
  · split
    · exact h.removeEntry ..
    · exact h
  · exact h

theorem State.QueueWithin.carryChannelSet (slot : List Byte) : (carryChannelSet slot s).QueueWithin base 0 := by
  unfold Machine.carryChannelSet
  split
  · exact ⟨h.queue⟩
  · split
    · exact ⟨h.queue⟩
    · split <;> exact ⟨h.queue⟩

theorem State.QueueWithin.carryChannelStart (slot : List Byte) : (carryChannelStart slot s).QueueWithin base 0 := by
  unfold Machine.carryChannelStart
  split
  · exact ⟨h.queue⟩
  · dsimp only
    split <;> exact ⟨h.queue⟩

theorem State.QueueWithin.carryChannelStop (slot : List Byte) : (carryChannelStop slot s).QueueWithin base 0 := by
  unfold Machine.carryChannelStop
  split
  · exact ⟨h.queue⟩
  · split
    · exact ⟨(h.flushEntries none _).queue⟩
    · exact ⟨h.queue⟩

theorem State.QueueWithin.tableStep {c : Instr} (step : TableStep s c t) (start : ∀ y ∈ s.entries, y.near base = true)
    (final : ∀ y ∈ t.entries, y.near base = true) : t.QueueWithin base 2 := by
  have begun : s.begun.QueueWithin base 0 := ⟨h.queue⟩
  cases step with
  | same _ g => exact (g.samePool.queueWithin h).more (Nat.zero_le 2)
  | reset _ g => exact g.samePool.queueWithin ⟨⟨.nil, by simp [State.reset]⟩⟩
  | classify k => exact ((classifyHead_samePool k s).queueWithin h).more (Nat.zero_le 2)
  | takeInput k => exact h.takeInput k start final
  | takeExpiry => exact h.takeExpiry.more (Nat.zero_le 2)
  | channelSet slot => exact (begun.carryChannelSet slot).more (Nat.zero_le 2)
  | channelStart slot => exact (begun.carryChannelStart slot).more (Nat.zero_le 2)
  | channelStop slot => exact (begun.carryChannelStop slot).more (Nat.zero_le 2)

end

/-- Settles O56: what a command can do to the pool, and that each of it keeps the queue in order. -/
theorem stepKeepsTheExpiryQueueInOrder : Obligations.StepKeepsTheExpiryQueueInOrder := by
  intro s t base ordered ages near step
  have start : ∀ e ∈ s.entries, e.near base = true := fun e he => decide_eq_true (near e (.inl he))
  have final : ∀ e ∈ t.entries, e.near base = true := fun e he => decide_eq_true (near e (.inr he))
  rcases step_next_cases step with rfl | ⟨c, rest, _, carried⟩
  · exact ⟨ordered, fun e he => (ages e he).imp_right fun le => le.trans (by decide)⟩
  · have begun : ({ s with pending := rest } : State).QueueWithin base 0 := ⟨⟨ordered.sublist List.filter_sublist, ages⟩⟩
    have kept := begun.tableStep (exec_tableStep c carried) start final
    exact ⟨kept.queue.whole final, kept.queue.ages⟩

end Sys2Proof.Machine
end

section
/-! SUPPORT. The cases of a frame, by value: how a frame sorts, and what each case makes of a state in which its channel
stands at a given value (R93 to R110). -/

namespace Sys2Proof.Machine

/-! ### How a frame sorts -/

section
variable {m limit d : Nat}

theorem beyondLimit_within_ahead (near : d < m / 2) (le : d ≤ limit) : beyondLimit m limit d = none := by
  rw [beyondLimit, if_pos near, if_neg (Nat.not_lt.mpr le), ite_self]

theorem beyondLimit_within_behind (far : m / 2 ≤ d) (le : m - d ≤ limit) : beyondLimit m limit d = none := by
  rw [beyondLimit, if_neg (Nat.not_lt.mpr far), if_neg (Nat.not_lt.mpr le), ite_self]

/-- Beyond the limit, in the direction of the distance (R93). -/
theorem beyondLimit_beyond {direction : Direction} (ne : d ≠ 0)
    (beyond : direction = .ahead ∧ d < m / 2 ∧ limit < d ∨ direction = .behind ∧ m / 2 ≤ d ∧ limit < m - d) :
    beyondLimit m limit d = some direction := by
  rw [beyondLimit, if_neg ne]
  rcases beyond with ⟨rfl, near, lt⟩ | ⟨rfl, far, lt⟩
  · rw [if_pos near, if_pos lt]
  · rw [if_neg (Nat.not_lt.mpr far), if_pos lt]

end

section
variable {c : ChannelSettings} {next : Nat} {f : Classified}

theorem sortFrame_heartbeat (none' : f.c = 0) : sortFrame c (some next) f = .heartbeat := if_pos none'

variable (some' : 1 ≤ f.c)
include some'

theorem sortFrame_inOrder (here : behindBy c.modulus f.s next = 0) : sortFrame c (some next) f = .inOrder := by
  unfold sortFrame
  dsimp only
  rw [if_neg (by omega), if_pos here]

theorem sortFrame_resync (ne : behindBy c.modulus f.s next ≠ 0) {direction : Direction}
    (beyond : beyondLimit c.modulus c.resyncLimit (behindBy c.modulus f.s next) = some direction) :
    sortFrame c (some next) f = .resync direction := by
  unfold sortFrame
  dsimp only
  rw [if_neg (by omega), if_neg ne, beyond]

theorem sortFrame_ahead (ahead : 1 ≤ behindBy c.modulus f.s next) (near : behindBy c.modulus f.s next < c.modulus / 2)
    (le : behindBy c.modulus f.s next ≤ c.resyncLimit) :
    sortFrame c (some next) f = .ahead (behindBy c.modulus f.s next) := by
  unfold sortFrame
  dsimp only
  rw [if_neg (by omega), if_neg (by omega), beyondLimit_within_ahead near le]
  exact if_pos near

/-- Behind NextSeq within the limit: the frame straddles it, or lies wholly behind it. -/
theorem sortFrame_behind (ne : behindBy c.modulus f.s next ≠ 0) (far : c.modulus / 2 ≤ behindBy c.modulus f.s next)
    (le : c.modulus - behindBy c.modulus f.s next ≤ c.resyncLimit) :
    sortFrame c (some next) f =
      if c.modulus - behindBy c.modulus f.s next < f.c then .straddle (c.modulus - behindBy c.modulus f.s next)
      else .whollyBehind (c.modulus - behindBy c.modulus f.s next) := by
  unfold sortFrame
  dsimp only
  rw [if_neg (by omega), if_neg ne, beyondLimit_within_behind far le]
  exact if_neg (Nat.not_lt.mpr far)

end

/-! ### Records and publications -/

/-- What tells a frame on a channel of given settings from every other (R110, log 35). -/
def Classified.tagOn (f : Classified) (c : ChannelSettings) : FrameTag :=
  { port := f.port, stamp := f.capture.stamp, lane := c.lane }

/-- The offer of a frame's own record (R110). -/
def Classified.own (f : Classified) (c : ChannelSettings) (r : Record) : Offer :=
  { lane := c.lane, source := .table f.channel (some (f.tagOn c)), record := r }

/-- An offer joins those not yet taken. -/
def State.offered (s : State) (o : Offer) : State := { s with offers := s.offers ++ [o] }

/-- In PAIRED mode the AWAIT entry of a range is asked for (R97, R109). -/
def Classified.asked (f : Classified) (c : ChannelSettings) (first k : Nat) (filling : Option (BitVec 32)) (s : State) :
    State :=
  if c.mode = .paired then requestEntry (f.tagOn c) (f.awaitEntry c first k) filling s else s

/-- A publication: its AWAIT entry, its ARRIVAL record, its count (R97, R109, R110). -/
def Classified.published (f : Classified) (c : ChannelSettings) (flags : ArrivalFlags) (first k : Nat)
    (filling : Option (BitVec 32)) (s : State) : State :=
  ((f.asked c first k filling s).offered (f.own c (f.arrival flags first k))).bump (.table f.channel .published)

/-- The entries that an advance of NextSeq passes over (R110). -/
def Classified.overtaken (f : Classified) (m next : Nat) (s : State) : List Entry :=
  (s.collection f.channel).filter fun e =>
    decide (m / 2 < behindBy m next e.first + behindBy m (f.after m) next)

/-- They leave before the frame's own records (R110). -/
def Classified.passed (f : Classified) (c : ChannelSettings) (next : Nat) (s : State) : State :=
  flushEntries (some (f.tagOn c)) (f.overtaken c.modulus next s) s

section
variable {s : State} {f : Classified} {x : Channel} (h : s.channel f.channel = x)
include h

theorem offerOwn_eq (r : Record) : offerOwn f r s = s.offered (f.own x.settings r) := by
  subst h; rfl

theorem publish_eq (flags : ArrivalFlags) (first k : Nat) (filling : Option (BitVec 32)) :
    publish f flags first k filling s =
      f.published x.settings { flags with published := true } first k filling s := by
  unfold publish Classified.published Classified.asked
  have tag : f.tag s = f.tagOn x.settings := by subst h; rfl
  dsimp only
  rw [tag, h, offerOwn_eq]
  split
  · exact ((requestEntry_adds ..).channel _).trans h
  · exact h

theorem setNext_eq (next : Option Nat) : setNext f.channel next s = s.setChannel f.channel { x with nextSeq := next } := by
  rw [setNext, h]

theorem Classified.passed_channel (next : Nat) : (f.passed x.settings next s).channel f.channel = x :=
  ((flushEntries_adds ..).channel _).trans h

theorem Classified.published_channel (flags : ArrivalFlags) (first k : Nat) (filling : Option (BitVec 32)) :
    (f.published x.settings flags first k filling s).channel f.channel = x := by
  refine Eq.trans ?_ h
  unfold Classified.published Classified.asked
  show State.channel (if _ then _ else _) _ = _
  split
  · exact (requestEntry_adds ..).channel _
  · rfl

theorem passOver_eq (next : Nat) : passOver f next (f.after x.settings.modulus) s = f.passed x.settings next s := by
  subst h; rfl

/-! ### The cases of a frame -/

theorem takeStart_eq (some' : 1 ≤ f.c) :
    takeStart f x.settings.modulus s =
      (f.published x.settings { published := true } f.s f.c none s).setChannel f.channel
        { x with nextSeq := some (f.after x.settings.modulus) } := by
  rw [takeStart, if_neg (by omega), publish_eq h, setNext_eq (f.published_channel h ..)]

theorem takeInOrder_eq (next : Nat) :
    takeInOrder f x.settings.modulus next s =
      (f.published x.settings { published := true } f.s f.c none (f.passed x.settings next s)).setChannel f.channel
        { x with nextSeq := some (f.after x.settings.modulus) } := by
  have passed := f.passed_channel h next
  rw [takeInOrder, passOver_eq h, publish_eq passed, setNext_eq (f.published_channel passed ..)]

theorem revealGap_eq (next a : Nat) :
    revealGap f x.settings.modulus next a s =
      requestEntry (f.tagOn x.settings) (f.gapEntry x.settings next a) none (f.passed x.settings next s) := by
  rw [revealGap, passOver_eq h, h]
  subst h; rfl

theorem revealGap_channel (next a : Nat) : (revealGap f x.settings.modulus next a s).channel f.channel = x := by
  rw [revealGap_eq h, (requestEntry_adds ..).channel]
  exact f.passed_channel h next

theorem takeAhead_eq (next a : Nat) :
    takeAhead f x.settings.modulus next a s =
      (f.published x.settings { published := true } f.s f.c none (requestEntry (f.tagOn x.settings)
        (f.gapEntry x.settings next a) none (f.passed x.settings next s))).setChannel f.channel
        { x with nextSeq := some (f.after x.settings.modulus) } := by
  have revealed := revealGap_channel h next a
  rw [takeAhead, publish_eq revealed, setNext_eq (f.published_channel revealed ..), revealGap_eq h]

theorem takeStraddle_eq (next b : Nat) :
    takeStraddle f x.settings.modulus next b s =
      (f.published x.settings { published := true, isPartial := true } next (f.c - b) none
        (f.passed x.settings next s)).setChannel f.channel { x with nextSeq := some (f.after x.settings.modulus) } := by
  have passed := f.passed_channel h next
  rw [takeStraddle, passOver_eq h, publish_eq passed, setNext_eq (f.published_channel passed ..)]

end

/-- The Table takes a frame of its channel's present run. -/
theorem exec_tableTakeFrame_of_arrives {s : State} {k : PortNo} {f : Classified} (h : s.Arrives k f) :
    exec (.tableTakeFrame k) s = .next (refillInput k (arbitrate f (s.setInput k none))) := by
  obtain ⟨found, on, run⟩ := h
  show Host.Outcome.next (takeInput k s) = _
  rw [takeInput, found]
  dsimp only
  rw [takeClassified_current f (s.setInput k none) on run]

/-! ### Arbitration, sorted -/

section
variable {s : State} {f : Classified} {x : Channel} (h : s.channel f.channel = x)
include h

theorem arbitrate_start (unset : x.nextSeq = none) : arbitrate f s = takeStart f x.settings.modulus s := by
  unfold arbitrate
  dsimp only
  rw [h, unset]
  rfl

variable {next : Nat} (set : x.nextSeq = some next)
include set

theorem arbitrate_heartbeat (none' : f.c = 0) : arbitrate f s = takeHeartbeat f x.settings.modulus next s := by
  unfold arbitrate
  dsimp only
  rw [h, set, sortFrame_heartbeat none']
  rfl

variable (some' : 1 ≤ f.c)
include some'

theorem arbitrate_inOrder (here : behindBy x.settings.modulus f.s next = 0) :
    arbitrate f s = takeInOrder f x.settings.modulus next s := by
  unfold arbitrate
  dsimp only
  rw [h, set, sortFrame_inOrder some' here]
  rfl

theorem arbitrate_resync (ne : behindBy x.settings.modulus f.s next ≠ 0) {direction : Direction}
    (beyond : beyondLimit x.settings.modulus x.settings.resyncLimit (behindBy x.settings.modulus f.s next)
      = some direction) :
    arbitrate f s = takeResync f x.settings.modulus next direction s := by
  unfold arbitrate
  dsimp only
  rw [h, set, sortFrame_resync some' ne beyond]
  rfl

theorem arbitrate_ahead (ahead : 1 ≤ behindBy x.settings.modulus f.s next)
    (near : behindBy x.settings.modulus f.s next < x.settings.modulus / 2)
    (le : behindBy x.settings.modulus f.s next ≤ x.settings.resyncLimit) :
    arbitrate f s = takeAhead f x.settings.modulus next (behindBy x.settings.modulus f.s next) s := by
  unfold arbitrate
  dsimp only
  rw [h, set, sortFrame_ahead some' ahead near le]
  rfl

variable (ne : behindBy x.settings.modulus f.s next ≠ 0)
  (far : x.settings.modulus / 2 ≤ behindBy x.settings.modulus f.s next)
  (le : x.settings.modulus - behindBy x.settings.modulus f.s next ≤ x.settings.resyncLimit)
include ne far le

theorem arbitrate_straddle (beyond : x.settings.modulus - behindBy x.settings.modulus f.s next < f.c) :
    arbitrate f s =
      takeStraddle f x.settings.modulus next (x.settings.modulus - behindBy x.settings.modulus f.s next) s := by
  unfold arbitrate
  dsimp only
  rw [h, set, sortFrame_behind some' ne far le, if_pos beyond]
  rfl

theorem arbitrate_whollyBehind (within : f.c ≤ x.settings.modulus - behindBy x.settings.modulus f.s next) :
    arbitrate f s = takeBehind f x.settings.modulus s := by
  unfold arbitrate
  dsimp only
  rw [h, set, sortFrame_behind some' ne far le, if_neg (Nat.not_lt.mpr within)]

end

end Sys2Proof.Machine
end

section
/-! SUPPORT. A frame that reaches NextSeq or beyond, by value, and on a channel of cap 1 (R94 to R99, R124). -/

namespace Sys2Proof.Machine

/-! ### A channel of cap 1 -/

section
variable {s : State} {e : Entry} {f : Classified} {c : ChannelSettings}

/-- The offer of an entry of a frame's channel that leaves EVICTED by that frame (R122). -/
def Classified.gone (f : Classified) (c : ChannelSettings) (now : Count) (e : Entry) : Offer :=
  f.own c (e.leaving c now .evicted)

/-- An entry created in a channel that holds none is its only one. -/
theorem channelEntries_createEntry (empty : s.channelEntries e.channel = []) :
    (createEntry e s).channelEntries e.channel = [{ e with order := s.nextOrder }] := by
  have perm := (insertEntry_perm { e with order := s.nextOrder } s.entries).filter fun x => decide (x.channel = e.channel)
  rw [List.filter_cons_of_pos (by simp), show s.entries.filter _ = [] from empty] at perm
  exact List.perm_singleton.mp perm

/-- The one entry of a channel evicted. -/
theorem channelEntries_evictEntry {v : Entry} (held : s.channelEntries e.channel = [v]) (frame : FrameTag) :
    v.channel = e.channel ∧ (evictEntry v frame s).channelEntries e.channel = [] := by
  have mem : v ∈ s.channelEntries e.channel := by rw [held]; exact List.mem_singleton_self v
  obtain ⟨mem, own⟩ := List.mem_filter.mp mem
  rw [decide_eq_true_eq] at own
  have left := (length_evictEntry mem frame).2
  rw [own, held] at left
  exact ⟨own, List.eq_nil_of_length_eq_zero (Nat.succ.inj left)⟩

/-- A request on a channel of cap 1: the entry that the channel held, if any, leaves EVICTED, and the one asked for is
its only entry (R122, R124). -/
theorem requestEntry_capOne (own : e.channel = f.channel) (set : (s.channel f.channel).settings = c)
    (one : c.entryCap = 1) (few : (s.channelEntries f.channel).length ≤ 1)
    (room : s.channelEntries f.channel = [] → s.entries.length < Config.poolSize) :
    let t := requestEntry (f.tagOn c) e none s
    t.channelEntries f.channel = [{ e with order := s.nextOrder }] ∧ t.nextOrder = s.nextOrder + 1
      ∧ t.offers = s.offers ++ (s.channelEntries f.channel).map (f.gone c s.count) := by
  intro t
  subst set
  rw [← own] at one few room ⊢
  match held : s.channelEntries e.channel with
  | [] =>
    have eq : t = createEntry e s := requestEntry_room _ e none s (by rw [held, one]; exact Nat.one_pos) (room held)
    rw [eq]
    exact ⟨channelEntries_createEntry held, rfl, (List.append_nil _).symm⟩
  | [v] =>
    have eq : t = createEntry e (evictEntry v (f.tagOn (s.channel f.channel).settings) s) := by
      refine (requestEntry_cap _ e none s (by rw [held, one]; rfl)).trans ?_
      rw [s.candidate_channel, held]
      rfl
    obtain ⟨same, empty⟩ := channelEntries_evictEntry held (f.tagOn (s.channel f.channel).settings)
    rw [eq]
    refine ⟨channelEntries_createEntry empty, rfl, ?_⟩
    show s.offers ++ [_] = s.offers ++ [_]
    rw [same, own]
    rfl
  | v :: w :: rest =>
    rw [held] at few
    exact absurd few (by simp)

end

theorem Classified.published_paired (f : Classified) {c : ChannelSettings} (paired : c.mode = .paired)
    (flags : ArrivalFlags) (first k : Nat) (filling : Option (BitVec 32)) (s : State) :
    f.published c flags first k filling s =
      ((requestEntry (f.tagOn c) (f.awaitEntry c first k) filling s).offered (f.own c (f.arrival flags first k))).bump
        (.table f.channel .published) := by
  rw [Classified.published, Classified.asked, if_pos paired]

/-- A frame ahead on a PAIRED channel of cap 1: what the channel held leaves, then the GAP entry, and the AWAIT entry
alone stays (R124). -/
theorem ahead_capOne {s : State} {f : Classified} {c : ChannelSettings} (next d : Nat)
    (set : (s.channel f.channel).settings = c) (paired : c.mode = .paired) (one : c.entryCap = 1)
    (few : (s.channelEntries f.channel).length ≤ 1)
    (room : s.channelEntries f.channel = [] → s.entries.length < Config.poolSize) :
    let t := f.published c { published := true } f.s f.c none
      (requestEntry (f.tagOn c) (f.gapEntry c next d) none s)
    t.channelEntries f.channel = [{ f.awaitEntry c f.s f.c with order := s.nextOrder + 1 }]
      ∧ t.offers = s.offers ++ (s.channelEntries f.channel ++ [f.gapEntry c next d]).map (f.gone c s.count)
          ++ [f.own c (f.arrival { published := true } f.s f.c)] := by
  dsimp only
  rw [f.published_paired paired]
  obtain ⟨held, order, offers⟩ := requestEntry_capOne (e := f.gapEntry c next d) rfl set one few room
  have table := (State.TableOnly.refl s).requestEntry (f.tagOn c) (f.gapEntry c next d) none
  have same := (requestEntry_adds (f.tagOn c) (f.gapEntry c next d) none s).channel f.channel
  generalize requestEntry (f.tagOn c) (f.gapEntry c next d) none s = u at *
  obtain ⟨held', _, offers'⟩ := requestEntry_capOne (s := u) (e := f.awaitEntry c f.s f.c) rfl (by rw [same, set]) one
    (by rw [held]; rfl) (by rw [held]; simp)
  rw [order] at held'
  rw [held, table.count, offers] at offers'
  refine ⟨held', ?_⟩
  show (requestEntry (f.tagOn c) (f.awaitEntry c f.s f.c) none u).offers ++ [_] = _
  rw [offers', List.map_append, List.append_assoc s.offers]
  rfl

/-- Settles O16: the four cases by their sorting, and a channel of cap 1. -/
theorem frameReachingNextSeqIsPublished : Obligations.FrameReachingNextSeqIsPublished := by
  refine ⟨fun k f s arrives some' => ?_, fun f flags pubFirst pubCount => ⟨rfl, rfl⟩⟩
  intro x c m by' after await gap own overtaken passed published ends
  have taken := exec_tableTakeFrame_of_arrives arrives
  have at' : (s.setInput k none).channel f.channel = x := rfl
  have ahead (next : Nat) (set : x.nextSeq = some next) (gap' : 1 ≤ behindBy m f.s next)
      (near : behindBy m f.s next < m / 2) (le : behindBy m f.s next ≤ c.resyncLimit) :
      exec (.tableTakeFrame k) s =
        ends (published { published := true } f.s f.c
          (requestEntry by' (gap next (behindBy m f.s next)) none (passed next))) := by
    rw [taken, arbitrate_ahead at' set some' gap' near le, takeAhead_eq at']
    rfl
  refine ⟨fun unset => ?_, fun next set => ⟨fun here => ?_, ahead next set, fun ne far le beyond => ?_,
    fun gap' near le none' paired one few room => ?_⟩⟩
  · rw [taken, arbitrate_start at' unset, takeStart_eq at' some']
    rfl
  · rw [taken, arbitrate_inOrder at' set some' here, takeInOrder_eq at']
    rfl
  · rw [taken, arbitrate_straddle at' set some' ne far le beyond, takeStraddle_eq at']
    rfl
  · intro gone
    refine ⟨_, ahead next set gap' near le, ?_⟩
    have stays : passed next = s.setInput k none := by
      show flushEntries (some by') (overtaken next) _ = _
      rw [none']
      rfl
    rw [stays]
    exact ahead_capOne (s := s.setInput k none) next _ rfl paired one few room

end Sys2Proof.Machine
end

section
/-! SUPPORT. A frame wholly behind NextSeq, by value: stale, duplicate, partner, or a fill, also on a channel of cap 1 (R100
to R106, R123). -/

namespace Sys2Proof.Machine

/-! ### The entry that a sequence number lies in -/

section
variable {s : State} {f : Classified} {m : Nat}

/-- In no entry of the channel. -/
theorem takeBehind_stale (outside : s.entryWith f.channel f.s = none) :
    takeBehind f m s = rejectFrame f { stale := true } (s.bump (.table f.channel .stale)) := by
  rw [takeBehind, outside]

theorem takeBehind_gap {e : Entry} {o : Opened} (found : s.entryWith f.channel f.s = some e) (kind : e.kind = .gap o) :
    takeBehind f m s = takeFill f e m s := by
  rw [takeBehind, found]
  dsimp only
  rw [kind]

theorem takeBehind_await {e : Entry} {w : Winner} (found : s.entryWith f.channel f.s = some e)
    (kind : e.kind = .await w) :
    takeBehind f m s =
      if w.line = f.line then rejectFrame f { duplicate := true } (s.bump (.table f.channel .duplicates))
      else takePartner f e w s := by
  rw [takeBehind, found]
  dsimp only
  rw [kind]

theorem entryWith_none {ch : ChannelNo} {q : Nat}
    (outside : ∀ e ∈ s.channelEntries ch, ¬behindBy (s.channel ch).settings.modulus q e.first < e.count) :
    s.entryWith ch q = none := by
  unfold State.entryWith
  rw [List.find?_eq_none]
  simpa using outside

/-- In one entry of the channel, and no other. -/
theorem entryWith_some {ch : ChannelNo} {q : Nat} {e : Entry} (mem : e ∈ s.channelEntries ch)
    (inside : behindBy (s.channel ch).settings.modulus q e.first < e.count)
    (only : ∀ y ∈ s.channelEntries ch, behindBy (s.channel ch).settings.modulus q y.first < y.count → y = e) :
    s.entryWith ch q = some e := by
  have found : (s.entryWith ch q).isSome := by
    unfold State.entryWith
    rw [List.find?_isSome]
    exact ⟨e, mem, decide_eq_true inside⟩
  obtain ⟨y, hy⟩ := Option.isSome_iff_exists.mp found
  have covers := List.find?_some hy
  rw [hy, only y (List.mem_of_find?_eq_some hy) (of_decide_eq_true covers)]

end

/-! ### A fill -/

section
variable (f : Classified) (m : Nat) (e : Entry)

/-- The part of a gap before a frame's range, the part that the frame fills, and the part beyond it (R101). -/
def Classified.below : Nat := behindBy m f.s e.first
def Classified.filled : Nat := min f.c (e.count - f.below m e)
def Classified.above : Nat := e.count - f.below m e - f.filled m e

/-- The pieces of a gap that a fill leaves (R101). -/
def Classified.lower : Entry := { e with count := f.below m e }
def Classified.upper : Entry := { e with first := (f.s + f.filled m e) % m, count := f.above m e }

end

/-- The pool with an entry changed in place. -/
def State.keeps (s : State) (e piece : Entry) : State := { s with entries := replaceEntry s.entries e piece }

section
variable {s : State} {f : Classified} {x : Channel} (h : s.channel f.channel = x) {e : Entry}
include h

theorem takeFill_whole (none' : f.below x.settings.modulus e = 0) (done : f.above x.settings.modulus e = 0) :
    takeFill f e x.settings.modulus s =
      f.published x.settings { published := true, fill := true } f.s (f.filled x.settings.modulus e) none
        { s with entries := s.entries.erase e } :=
  (if_pos ⟨none', done⟩).trans (publish_eq (s := { s with entries := s.entries.erase e }) h ..)

theorem takeFill_lower (left : f.below x.settings.modulus e ≠ 0) (done : f.above x.settings.modulus e = 0) :
    takeFill f e x.settings.modulus s =
      f.published x.settings { published := true, fill := true } f.s (f.filled x.settings.modulus e) (some e.order)
        (s.keeps e (f.lower x.settings.modulus e)) :=
  (if_neg fun both => left both.1).trans
    ((if_pos done).trans (publish_eq (s := s.keeps e (f.lower x.settings.modulus e)) h ..))

theorem takeFill_upper (none' : f.below x.settings.modulus e = 0) (left : f.above x.settings.modulus e ≠ 0) :
    takeFill f e x.settings.modulus s =
      f.published x.settings { published := true, fill := true } f.s (f.filled x.settings.modulus e) (some e.order)
        (s.keeps e (f.upper x.settings.modulus e)) :=
  (if_neg fun both => left both.2).trans ((if_neg left).trans
    ((if_pos none').trans (publish_eq (s := s.keeps e (f.upper x.settings.modulus e)) h ..)))

theorem takeFill_middle (low : f.below x.settings.modulus e ≠ 0) (high : f.above x.settings.modulus e ≠ 0) :
    takeFill f e x.settings.modulus s =
      f.published x.settings { published := true, fill := true } f.s (f.filled x.settings.modulus e) (some e.order)
        (requestEntry (f.tagOn x.settings) (f.upper x.settings.modulus e) (some e.order)
          (s.keeps e (f.lower x.settings.modulus e))) := by
  have same := ((requestEntry_adds (f.tagOn x.settings) (f.upper x.settings.modulus e) (some e.order)
    (s.keeps e (f.lower x.settings.modulus e))).channel f.channel).trans h
  subst h
  exact (if_neg fun both => low both.1).trans ((if_neg high).trans ((if_neg low).trans (publish_eq same ..)))

end

/-! ### A channel of cap 1 whose gap leaves a piece -/

section
variable {s : State} {f : Classified} {c : ChannelSettings} {e piece : Entry}

/-- With the piece the channel's only entry, an entry asked for leaves at once (R123). -/
theorem requestEntry_refused (own : e.channel = f.channel) (set : (s.channel f.channel).settings = c)
    (one : c.entryCap = 1) (held : s.channelEntries f.channel = [piece]) :
    let t := requestEntry (f.tagOn c) e (some piece.order) s
    t.channelEntries f.channel = [piece] ∧ t.offers = s.offers ++ [f.gone c s.count e] := by
  intro t
  subst set
  have no : (s.candidate (some piece.order) fun v => decide (v.channel = e.channel)) = none := by
    rw [s.candidate_eq, own, show s.entries.filter _ = [piece] from held]
    simp
  have eq : t = emitAtOnce (f.tagOn (s.channel f.channel).settings) e s := by
    refine (requestEntry_cap _ e _ s (by rw [own, held, one]; rfl)).trans ?_
    rw [no]
  rw [eq]
  refine ⟨held, ?_⟩
  show s.offers ++ [_] = _
  rw [own]
  rfl

/-- So does the AWAIT entry of the publication, before its ARRIVAL record (R123). -/
theorem published_refused (set : (s.channel f.channel).settings = c) (paired : c.mode = .paired) (one : c.entryCap = 1)
    (held : s.channelEntries f.channel = [piece]) (flags : ArrivalFlags) (first k : Nat) :
    let t := f.published c flags first k (some piece.order) s
    t.channelEntries f.channel = [piece]
      ∧ t.offers = s.offers ++ [f.gone c s.count (f.awaitEntry c first k), f.own c (f.arrival flags first k)] := by
  obtain ⟨kept, offers⟩ := requestEntry_refused (e := f.awaitEntry c first k) rfl set one held
  dsimp only
  rw [f.published_paired paired]
  refine ⟨kept, ?_⟩
  show (requestEntry (f.tagOn c) (f.awaitEntry c first k) (some piece.order) s).offers ++ [_] = _
  rw [offers, List.append_assoc]
  rfl

/-- The piece takes the place of the gap. -/
theorem channelEntries_keeps {ch : ChannelNo} (same : piece.channel = e.channel) (held : s.channelEntries ch = [e]) :
    (s.keeps e piece).channelEntries ch = [piece] := by
  have commutes : (s.keeps e piece).channelEntries ch = replaceEntry (s.channelEntries ch) e piece := by
    unfold State.keeps State.channelEntries replaceEntry
    rw [List.filter_map]
    congr 1
    refine List.filter_congr fun y _ => ?_
    by_cases hy : y = e
    · simp [hy, same]
    · simp [hy]
  rw [commutes, held, replaceEntry, List.map_singleton, if_pos rfl]

/-- A fill that leaves a piece, on a PAIRED channel of cap 1: what it asks for leaves at once, and one piece stays
(R123). -/
theorem takeFill_capOne {x : Channel} (h : s.channel f.channel = x) (paired : x.settings.mode = .paired)
    (one : x.settings.entryCap = 1) (held : s.channelEntries f.channel = [e])
    (left : f.below x.settings.modulus e + f.above x.settings.modulus e ≠ 0) :
    let m := x.settings.modulus
    let gone := f.gone x.settings s.count
    let t := takeFill f e m s
    t.channelEntries f.channel = [if f.below m e = 0 then f.upper m e else f.lower m e]
      ∧ t.offers = s.offers ++ (if f.below m e ≠ 0 ∧ f.above m e ≠ 0 then [gone (f.upper m e)] else [])
          ++ [gone (f.awaitEntry x.settings f.s (f.filled m e)),
            f.own x.settings (f.arrival { published := true, fill := true } f.s (f.filled m e))] := by
  intro m gone t
  have own : e.channel = f.channel := by
    have mem : e ∈ s.channelEntries f.channel := by rw [held]; exact List.mem_singleton_self e
    simpa using (List.mem_filter.mp mem).2
  have set : (s.channel f.channel).settings = x.settings := by rw [h]
  by_cases low : f.below m e = 0
  · have high : f.above m e ≠ 0 := fun none' => left (by rw [low, none'])
    have eq : t = _ := takeFill_upper h low high
    rw [eq, if_pos low, if_neg (fun both => both.1 low), List.append_nil]
    exact published_refused (s := s.keeps e (f.upper m e)) (piece := f.upper m e) set paired one
      (channelEntries_keeps rfl held) _ _ _
  · have kept : (s.keeps e (f.lower m e)).channelEntries f.channel = [f.lower m e] := channelEntries_keeps rfl held
    rw [if_neg low]
    by_cases high : f.above m e = 0
    · have eq : t = _ := takeFill_lower h low high
      rw [eq, if_neg (fun both => both.2 high), List.append_nil]
      exact published_refused (s := s.keeps e (f.lower m e)) (piece := f.lower m e) set paired one kept _ _ _
    · have eq : t = _ := takeFill_middle h low high
      obtain ⟨refused, offers⟩ := requestEntry_refused (s := s.keeps e (f.lower m e)) (e := f.upper m e) own set one kept
      have table := (State.TableOnly.refl (s.keeps e (f.lower m e))).requestEntry (f.tagOn x.settings) (f.upper m e)
        (some (f.lower m e).order)
      have same := (requestEntry_adds (f.tagOn x.settings) (f.upper m e) (some (f.lower m e).order)
        (s.keeps e (f.lower m e))).channel f.channel
      obtain ⟨stays, offers'⟩ := published_refused (by rw [same]; exact set) paired one refused
        { published := true, fill := true } f.s (f.filled m e)
      rw [eq, if_pos ⟨low, high⟩]
      refine ⟨stays, offers'.trans ?_⟩
      rw [offers, table.count]
      rfl

end

/-- Settles O17: what the frame's first sequence lies in, and the parts of a gap that a fill leaves. -/
theorem frameBehindMeetsItsEntry : Obligations.FrameBehindMeetsItsEntry := by
  refine ⟨fun k f next s arrives some' => ?_, fun _ _ _ _ => rfl⟩
  intro x c m by' d set ne far le within await u own offered ends rejected contains held
  have at' : u.channel f.channel = x := rfl
  have taken : exec (.tableTakeFrame k) s = ends (takeBehind f m u) := by
    rw [exec_tableTakeFrame_of_arrives arrives, arbitrate_whollyBehind at' set some' ne far le within]
  refine ⟨fun outside => ?_, fun e mem inside only => ?_⟩
  · rw [taken, takeBehind_stale (entryWith_none (s := u) outside)]
    rfl
  have found : u.entryWith f.channel f.s = some e := entryWith_some (s := u) mem inside only
  refine ⟨fun w kind => ?_, fun o kind => ?_⟩
  · intro lead r
    rw [taken, takeBehind_await found kind]
    refine ⟨fun same => ?_, fun other => ?_⟩
    · rw [if_pos same]
      rfl
    · rw [if_neg other]
      rfl
  · intro below filled above arrival published lower upper keeps
    rw [taken, takeBehind_gap found kind]
    refine ⟨fun low high => ?_, fun low high => ?_, fun low high => ?_, fun low high => ?_, fun paired one alone left => ?_⟩
    · exact congrArg ends (takeFill_whole at' low high)
    · exact congrArg ends (takeFill_lower at' low high)
    · exact congrArg ends (takeFill_upper at' low high)
    · exact congrArg ends (takeFill_middle at' low high)
    · exact ⟨_, rfl, takeFill_capOne at' paired one alone left⟩

end Sys2Proof.Machine
end

section
/-! SUPPORT. A resync, and a heartbeat, by value (R98, R107, R108, R125). -/

namespace Sys2Proof.Machine

/-! ### A resync -/

/-- The RESYNC record of a frame (R98). -/
def Classified.resyncRecord (f : Classified) (m next : Nat) (direction : Direction) (s : State) : ResyncRecord :=
  { channel := f.channel, port := f.port, line := f.line, time := s.reading, oldNext := next, newNext := f.after m
    direction := direction, flushed := (s.collection f.channel).length }

/-- The channel's collection has left (R125). -/
def Classified.cleared (f : Classified) (c : ChannelSettings) (s : State) : State :=
  flushEntries (some (f.tagOn c)) (s.collection f.channel) s

/-- And the resync has been told (R98). -/
def Classified.told (f : Classified) (c : ChannelSettings) (next : Nat) (direction : Direction) (s : State) : State :=
  (f.cleared c s).offered (f.own c (.resync (f.resyncRecord c.modulus next direction s)))

section
variable {s : State} {f : Classified} {x : Channel} (h : s.channel f.channel = x)
include h

theorem Classified.told_channel (next : Nat) (direction : Direction) :
    (f.told x.settings next direction s).channel f.channel = x :=
  ((flushEntries_adds (some (f.tagOn x.settings)) (s.collection f.channel) s).channel f.channel).trans h

/-- A heartbeat's record (R107). -/
theorem heartbeatRecord_eq (flags : ArrivalFlags) :
    heartbeatRecord f flags s = s.offered (f.own x.settings (f.arrival { flags with heartbeat := true } 0 0)) :=
  offerOwn_eq h _

/-- A resync: the collection flushed, the RESYNC record, then the frame's publication or the heartbeat's record. -/
theorem takeResync_eq (next : Nat) (direction : Direction) :
    takeResync f x.settings.modulus next direction s =
      ((if f.c = 0 then
          (f.told x.settings next direction s).offered
            (f.own x.settings (f.arrival { heartbeat := true, resync := true } 0 0))
        else f.published x.settings { published := true, resync := true } f.s f.c none
          (f.told x.settings next direction s)).setChannel f.channel
        { x with nextSeq := some (f.after x.settings.modulus) }).bump (.table f.channel .resyncs) := by
  have tag : f.tag s = f.tagOn x.settings := by subst h; rfl
  have cleared : (f.cleared x.settings s).channel f.channel = x :=
    ((flushEntries_adds (some (f.tagOn x.settings)) (s.collection f.channel) s).channel f.channel).trans h
  have reading : (f.cleared x.settings s).reading = s.reading :=
    ((State.TableOnly.refl s).flushEntries (some (f.tagOn x.settings)) (s.collection f.channel)).reading
  have told := f.told_channel h next direction
  have resynced : offerOwn f (.resync (f.resyncRecord x.settings.modulus next direction s)) (f.cleared x.settings s)
      = f.told x.settings next direction s := offerOwn_eq cleared _
  unfold takeResync
  dsimp only
  rw [tag, show flushEntries (some (f.tagOn x.settings)) (s.collection f.channel) s = f.cleared x.settings s from rfl,
    reading]
  rw [Classified.resyncRecord] at resynced
  rw [resynced]
  by_cases none' : f.c = 0
  · rw [if_pos none', if_pos none', heartbeatRecord_eq told,
      setNext_eq (s := (f.told x.settings next direction s).offered _) told]
  · rw [if_neg none', if_neg none', publish_eq told, setNext_eq (f.published_channel told ..)]

/-- A heartbeat beyond the resync limit resynchronises too (R108). -/
theorem takeHeartbeat_resync {next : Nat} {direction : Direction}
    (beyond : beyondLimit x.settings.modulus x.settings.resyncLimit (behindBy x.settings.modulus f.s next)
      = some direction) :
    takeHeartbeat f x.settings.modulus next s = takeResync f x.settings.modulus next direction s := by
  rw [takeHeartbeat, h, beyond]

/-- What the flush leaves of the pool, and the records that it offers. -/
theorem Classified.cleared_entries_offers :
    (f.cleared x.settings s).entries = s.entries.filter (fun e => decide (e.channel ≠ f.channel))
      ∧ (f.cleared x.settings s).offers = s.offers
          ++ (s.collection f.channel).map fun e => f.own x.settings (e.leaving x.settings s.count .flushed) := by
  unfold Classified.cleared
  rw [flushEntries_eq]
  refine ⟨?_, congrArg (s.offers ++ ·) (List.map_congr_left fun e he => ?_)⟩
  · show s.entries.diff _ = _
    rw [s.diff_collection]
    simp
  · have own : e.channel = f.channel := by simpa using (List.mem_filter.mp ((s.mem_collection f.channel e).mp he)).2
    rw [s.flushOffer_of_channel _ own, h]
    rfl

end

/-- Settles O18: the resync of a frame and of a heartbeat. -/
theorem frameFarAwayResynchronises : Obligations.FrameFarAwayResynchronises := by
  intro k f next direction s arrives x c m by' d set ne beyond after await flushed r own cleared told asked taken
  have at' : (s.setInput k none).channel f.channel = x := rfl
  have limit : beyondLimit m c.resyncLimit d = some direction := beyondLimit_beyond ne beyond
  have resyncs : arbitrate f (s.setInput k none) = takeResync f m next direction (s.setInput k none) := by
    by_cases none' : f.c = 0
    · rw [arbitrate_heartbeat at' set none', takeHeartbeat_resync at' limit]
    · exact arbitrate_resync at' set (by omega) ne limit
  obtain ⟨entries, offers⟩ := f.cleared_entries_offers at'
  refine ⟨entries, offers, fun cap pool => ?_, ?_⟩
  · have empty : told.channelEntries f.channel = [] :=
      flushEntries_collection (some by') (s.setInput k none) f.channel
    have same : told.channel f.channel = x := f.told_channel at' next direction
    have order : told.nextOrder = s.nextOrder := by
      show (flushEntries (some by') flushed (s.setInput k none)).nextOrder = _
      rw [flushEntries_eq]
      rfl
    have room : (told.channelEntries f.channel).length < (told.channel f.channel).settings.entryCap := by
      rw [empty, same]
      exact cap
    rw [← order]
    exact requestEntry_room by' (await f.s f.c) none told room pool
  · have shape : taken = if f.c = 0 then
          (f.told c next direction (s.setInput k none)).offered
            (f.own c (f.arrival { heartbeat := true, resync := true } 0 0))
        else f.published c { published := true, resync := true } f.s f.c none
          (f.told c next direction (s.setInput k none)) := by
      by_cases none' : f.c = 0
      · have quiet : asked = told := if_neg fun both => by omega
        show (if f.c = 0 then _ else _) = _
        rw [if_pos none', if_pos none', quiet]
        rfl
      · have asks : asked = f.asked c f.s f.c none told := by
          show (if 1 ≤ f.c ∧ c.mode = .paired then _ else _) = if c.mode = .paired then _ else _
          simp only [Nat.one_le_iff_ne_zero.mpr none', true_and]
          rfl
        show (if f.c = 0 then _ else _) = _
        rw [if_neg none', if_neg none', asks]
        rfl
    rw [exec_tableTakeFrame_of_arrives arrives, resyncs, takeResync_eq at', shape]
    rfl

end Sys2Proof.Machine
end

section
/-! SUPPORT. A heartbeat within the resync limit, by value, and what no heartbeat does (R107, R108). -/

namespace Sys2Proof.Machine

/-! ### Neither published nor awaited -/

/-- No message of the channel is counted as published, and no AWAIT entry is new. -/
structure State.Unpublished (s t : State) (ch : ChannelNo) : Prop where
  published : t.counters.get (.table ch .published) = s.counters.get (.table ch .published)
  awaits : ∀ e ∈ t.entries, e.isAwait = true → e ∈ s.entries

theorem State.Unpublished.refl (s : State) (ch : ChannelNo) : s.Unpublished s ch := ⟨rfl, fun _ mem _ => mem⟩

section
variable {s t : State} {ch : ChannelNo} (h : s.Unpublished t ch)
include h

/-- An operation that leaves the pool and the counters alone. -/
theorem State.Unpublished.of_eq {u : State} (entries : u.entries = t.entries) (counters : u.counters = t.counters) :
    s.Unpublished u ch :=
  ⟨counters ▸ h.published, entries ▸ h.awaits⟩

theorem State.Unpublished.bump {c : Counter} (ne : c ≠ .table ch .published) : s.Unpublished (t.bump c) ch :=
  ⟨(t.bump_get_of_ne ne).trans h.published, h.awaits⟩

theorem State.Unpublished.erase (e : Entry) :
    s.Unpublished { t with entries := t.entries.erase e } ch :=
  ⟨h.published, fun x mem => h.awaits x (List.mem_of_mem_erase mem)⟩

theorem State.Unpublished.heartbeatRecord (f : Classified) (flags : ArrivalFlags) :
    s.Unpublished (heartbeatRecord f flags t) ch := h.of_eq rfl rfl

theorem State.Unpublished.setNext (ch' : ChannelNo) (next : Option Nat) : s.Unpublished (setNext ch' next t) ch :=
  h.of_eq rfl rfl

theorem State.Unpublished.reportEntry (e : Entry) (why : Removal) (frame : Option FrameTag) :
    s.Unpublished (reportEntry e why frame t) ch := by
  have offered : s.Unpublished
      (t.offer (t.channel e.channel).settings.lane (.table e.channel frame)
        (e.leaving (t.channel e.channel).settings t.count why)) ch := h.of_eq rfl rfl
  refine offered.bump ?_
  rw [e.lossCounter_eq]
  exact nofun

theorem State.Unpublished.flushEntries (frame : Option FrameTag) (es : List Entry) :
    s.Unpublished (flushEntries frame es t) ch := by
  refine ⟨(flushEntries_get_of_ne frame es t _ fun e _ => ?_).trans h.published, fun e mem => h.awaits e ?_⟩
  · rw [e.lossCounter_eq]
    exact nofun
  · rw [flushEntries_entries] at mem
    exact List.diff_subset _ _ mem

theorem State.Unpublished.evictEntry (e : Entry) (frame : FrameTag) : s.Unpublished (evictEntry e frame t) ch :=
  ((h.erase e).reportEntry e .evicted (some frame)).bump nofun

theorem State.Unpublished.createEntry {e : Entry} (gap : e.isAwait = false) : s.Unpublished (createEntry e t) ch := by
  refine ⟨h.published, fun x mem await => ?_⟩
  rcases List.mem_cons.mp ((insertEntry_perm ..).mem_iff.mp mem) with rfl | old
  · exact absurd (gap.symm.trans await) Bool.false_ne_true
  · exact h.awaits x old await

/-- A request for a GAP entry, whatever it comes to (R121 to R124). -/
theorem State.Unpublished.requestEntry (frame : FrameTag) {e : Entry} (filling : Option (BitVec 32))
    (gap : e.isAwait = false) : s.Unpublished (requestEntry frame e filling t) ch := by
  have emitted : s.Unpublished (emitAtOnce frame e t) ch := (h.reportEntry ..).bump nofun
  unfold Machine.requestEntry
  split
  · split
    · exact (h.evictEntry ..).createEntry gap
    · exact emitted
  · split
    · split
      · exact ((h.evictEntry ..).bump (c := .poolFull) nofun).createEntry gap
      · exact emitted
    · exact h.createEntry gap

theorem State.Unpublished.revealGap (f : Classified) (m next a : Nat) :
    s.Unpublished (revealGap f m next a t) ch :=
  State.Unpublished.requestEntry (h.flushEntries ..) _ _ rfl

theorem State.Unpublished.refillInput (k : PortNo) : s.Unpublished (refillInput k t) ch := by
  unfold Machine.refillInput
  split
  · rename_i f _
    have entered : s.Unpublished ((t.setWaiting k none).setInput f.port (some f)) ch := h.of_eq rfl rfl
    exact entered.bump (c := .classifierChannel f.channel .classified) nofun
  · exact h

section
variable {f : Classified} (none' : f.c = 0)
include none'

theorem State.Unpublished.takeStart (m : Nat) : s.Unpublished (takeStart f m t) ch := by
  rw [Machine.takeStart, if_pos none']
  exact (h.heartbeatRecord ..).setNext ..

theorem State.Unpublished.takeResync (m next : Nat) (direction : Direction) :
    s.Unpublished (takeResync f m next direction t) ch := by
  unfold Machine.takeResync
  dsimp only
  rw [if_pos none']
  have flushed := h.flushEntries (some (f.tag t)) (t.collection f.channel)
  exact (((flushed.of_eq (u := offerOwn ..) rfl rfl).heartbeatRecord ..).setNext ..).bump nofun

theorem State.Unpublished.takeHeartbeat (m next : Nat) : s.Unpublished (takeHeartbeat f m next t) ch := by
  unfold Machine.takeHeartbeat
  dsimp only
  split
  · exact h.takeResync none' ..
  · split
    · exact h.heartbeatRecord ..
    · split
      · exact ((h.revealGap ..).heartbeatRecord ..).setNext ..
      · exact (h.heartbeatRecord ..).bump nofun

theorem State.Unpublished.arbitrate : s.Unpublished (arbitrate f t) ch := by
  rcases set : (t.channel f.channel).nextSeq with _ | next
  · rw [arbitrate_start rfl set]
    exact h.takeStart none' _
  · rw [arbitrate_heartbeat rfl set none']
    exact h.takeHeartbeat none' ..

end
end

/-! ### Within the limit -/

section
variable {s : State} {f : Classified} {x : Channel} (h : s.channel f.channel = x) (none' : f.c = 0)
include h none'

theorem takeStart_heartbeat :
    takeStart f x.settings.modulus s =
      (s.offered (f.own x.settings (f.arrival { heartbeat := true } 0 0))).setChannel f.channel
        { x with nextSeq := some (f.after x.settings.modulus) } := by
  rw [takeStart, if_pos none', heartbeatRecord_eq h, setNext_eq (s := s.offered _) h]

end

section
variable {s : State} {f : Classified} {x : Channel} (h : s.channel f.channel = x) {next : Nat}
include h

theorem takeHeartbeat_inOrder (here : behindBy x.settings.modulus f.s next = 0) :
    takeHeartbeat f x.settings.modulus next s =
      s.offered (f.own x.settings (f.arrival { heartbeat := true } 0 0)) := by
  rw [takeHeartbeat, h, here, show beyondLimit x.settings.modulus x.settings.resyncLimit 0 = none from if_pos rfl]
  exact heartbeatRecord_eq h _

theorem takeHeartbeat_ahead (ahead : 1 ≤ behindBy x.settings.modulus f.s next)
    (near : behindBy x.settings.modulus f.s next < x.settings.modulus / 2)
    (le : behindBy x.settings.modulus f.s next ≤ x.settings.resyncLimit) :
    takeHeartbeat f x.settings.modulus next s =
      ((requestEntry (f.tagOn x.settings) (f.gapEntry x.settings next (behindBy x.settings.modulus f.s next)) none
          (f.passed x.settings next s)).offered
        (f.own x.settings (f.arrival { heartbeat := true } 0 0))).setChannel f.channel
        { x with nextSeq := some (f.after x.settings.modulus) } := by
  have revealed := revealGap_channel h next (behindBy x.settings.modulus f.s next)
  rw [takeHeartbeat, h, beyondLimit_within_ahead near le]
  dsimp only
  rw [if_neg (by omega), if_pos near, heartbeatRecord_eq revealed, setNext_eq (s := State.offered _ _) revealed,
    revealGap_eq h]

theorem takeHeartbeat_behind (ne : behindBy x.settings.modulus f.s next ≠ 0)
    (far : x.settings.modulus / 2 ≤ behindBy x.settings.modulus f.s next)
    (le : x.settings.modulus - behindBy x.settings.modulus f.s next ≤ x.settings.resyncLimit) :
    takeHeartbeat f x.settings.modulus next s =
      (s.offered (f.own x.settings (f.arrival { stale := true, heartbeat := true } 0 0))).bump
        (.table f.channel .stale) := by
  rw [takeHeartbeat, h, beyondLimit_within_behind far le]
  dsimp only
  rw [if_neg ne, if_neg (Nat.not_lt.mpr far), heartbeatRecord_eq h]

end

/-- A heartbeat carries no message: NextSeq comes to its own sequence (R107, R108). -/
theorem Classified.after_heartbeat {f : Classified} {m : Nat} (none' : f.c = 0) (lt : f.s < m) : f.after m = f.s := by
  rw [Classified.after, none', Nat.add_zero, Nat.mod_eq_of_lt lt]

/-- Settles O19: a heartbeat that starts a run, and one in order, ahead and behind; none is published. -/
theorem heartbeatIsRecordedAndNotPublished : Obligations.HeartbeatIsRecordedAndNotPublished := by
  intro k f s arrives none' x c m by' lt u recorded ends
  have at' : u.channel f.channel = x := rfl
  have runs : exec (.tableTakeFrame k) s = ends (arbitrate f u) := exec_tableTakeFrame_of_arrives arrives
  have after : f.after x.settings.modulus = f.s := f.after_heartbeat none' lt
  refine ⟨fun unset => ?_, fun next set => ⟨fun here => ?_, fun ahead near le => ?_, fun ne far le => ?_⟩,
    fun t taken => ?_⟩
  · rw [runs, arbitrate_start at' unset, takeStart_heartbeat at' none', after]
    rfl
  · rw [runs, arbitrate_heartbeat at' set none', takeHeartbeat_inOrder at' here]
    rfl
  · rw [runs, arbitrate_heartbeat at' set none', takeHeartbeat_ahead at' ahead near le, Classified.passed,
      Classified.overtaken, after]
    rfl
  · rw [runs, arbitrate_heartbeat at' set none', takeHeartbeat_behind at' ne far le]
    rfl
  · have quiet : s.Unpublished (refillInput k (arbitrate f u)) f.channel :=
      (((State.Unpublished.refl s f.channel).of_eq (u := u) rfl rfl).arbitrate none').refillInput k
    have same : refillInput k (arbitrate f u) = t := Host.Outcome.next.inj (runs.symm.trans taken)
    rw [same] at quiet
    refine ⟨quiet.published, fun e mem w await => quiet.awaits e mem ?_⟩
    rw [Entry.isAwait, await]

end Sys2Proof.Machine
end

section
/-! SUPPORT. The expiry of the head of the Expiry Queue, by value (R117 to R120, R127). -/

namespace Sys2Proof.Machine

/-- The deadline test of R117, as a bound on the distance modulo 2^64. -/
theorem reached_iff (now deadline : Count) : reached now deadline = true ↔ (now - deadline).toNat < 2 ^ 63 := by
  rw [reached, decide_eq_true_eq]

section
variable {s : State} {e : Entry} {rest : List Entry}

/-- An empty queue gives nothing (log 2). -/
theorem takeExpiry_empty (none' : s.entries = []) : takeExpiry s = s := by
  simp only [takeExpiry, none']

/-- A head that is not due stays (log 2). -/
theorem takeExpiry_early (head : s.entries = e :: rest) (early : reached s.count e.deadline = false) :
    takeExpiry s = s := by
  simp only [takeExpiry, head, early, Bool.false_eq_true, if_false]

/-- A due head leaves the queue to the rest; its record is offered and counted on its channel (R117, R120, R127). -/
theorem takeExpiry_due (head : s.entries = e :: rest) (due : reached s.count e.deadline = true) :
    takeExpiry s =
      (({ s with entries := rest } : State).offer (s.channel e.channel).settings.lane (.table e.channel none)
        (e.leaving (s.channel e.channel).settings s.count .expired)).bump e.lossCounter := by
  have left : s.entries.erase e = rest := by rw [head, List.erase_cons_head]
  simp only [takeExpiry, head, due, if_true]
  rw [removeEntry_eq, left]

end

/-- Settles O21: no head, a head that is not due, and a due head of each of the two kinds, whose record O20 gives. -/
theorem dueHeadExpires : Obligations.DueHeadExpires := by
  obtain ⟨-, leaves, -⟩ := entriesAreObtainedAndLeave
  refine ⟨fun s => ⟨fun none' => ?empty, fun e rest head => ⟨fun early => ?early, fun w due kind => ?await,
    fun o due kind => ?gap⟩⟩, reached_iff⟩
  case empty => exact congrArg Host.Outcome.next (takeExpiry_empty none')
  case early => exact congrArg Host.Outcome.next (takeExpiry_early head early)
  case await =>
    obtain ⟨counter, record⟩ := (leaves e (s.channel e.channel).settings s.count .expired).1 w kind
    rw [decide_eq_true ((reached_iff ..).mp due)] at record
    refine congrArg Host.Outcome.next ((takeExpiry_due head due).trans ?_)
    rw [record, counter]
  case gap =>
    obtain ⟨counter, record⟩ := (leaves e (s.channel e.channel).settings s.count .expired).2 o kind
    rw [decide_eq_true ((reached_iff ..).mp due)] at record
    refine congrArg Host.Outcome.next ((takeExpiry_due head due).trans ?_)
    rw [record, counter]

end Sys2Proof.Machine
end

section
/-! SUPPORT. The Request Engine and the Bus Interface's own registers across the operations of the other blocks: the
engine's state, its scan and its copy, AREA_BASE, the FAULTED state, the outstanding reads and the counter snapshot all
stay as they were. -/

namespace Sys2Proof.Machine

/-- An answer is kept only while the engine is BUSY (R157, R162). -/
def Engine.Waits (e : Engine) : Prop := e.answer ≠ none → e.state = .busy

/-- t has the engine's state, scan and copy, AREA_BASE, the FAULTED state, the outstanding reads and the snapshot of s,
and keeps an answer in a state other than BUSY only if s does. -/
@[simp] abbrev State.SameControl (s t : State) : Prop :=
  (t.engine.state = s.engine.state ∧ t.engine.scan = s.engine.scan ∧ t.engine.copy = s.engine.copy
      ∧ (t.engine.Waits ↔ s.engine.Waits))
    ∧ t.bus.areaBase = s.bus.areaBase ∧ t.bus.faulted = s.bus.faulted ∧ t.bus.reads = s.bus.reads
    ∧ t.bus.snapshot = s.bus.snapshot

theorem State.SameControl.of_eq {s t : State} (engine : t.engine = s.engine) (bus : t.bus = s.bus) :
    s.SameControl t := by simp [engine, bus]

theorem State.SameControl.rfl {s : State} : s.SameControl s := .of_eq (Eq.refl _) (Eq.refl _)

theorem State.SameControl.trans {s t u : State} (h : s.SameControl t) (g : t.SameControl u) : s.SameControl u := by
  obtain ⟨⟨state, scan, copy, waits⟩, area, faulted, reads, snapshot⟩ := h
  obtain ⟨⟨state', scan', copy', waits'⟩, area', faulted', reads', snapshot'⟩ := g
  exact ⟨⟨state'.trans state, scan'.trans scan, copy'.trans copy, waits'.trans waits⟩, area'.trans area,
    faulted'.trans faulted, reads'.trans reads, snapshot'.trans snapshot⟩

theorem State.TableOnly.sameControl {s t : State} (h : s.TableOnly t) : s.SameControl t := .of_eq h.engine h.bus

/-- An operation that leaves the engine and the bus alone, carried out only where a condition holds. -/
theorem State.SameControl.ite {s t : State} {c : Prop} [Decidable c] (h : s.SameControl t) :
    s.SameControl (if c then t else s) := by
  split
  · exact h
  · exact .rfl

theorem State.begun_sameControl (s : State) : s.SameControl s.begun := .rfl

/-- A fold of steps of which each leaves them alone. -/
theorem foldl_sameControl {α : Type} {f : State → α → State} (h : ∀ u a, State.SameControl u (f u a)) (xs : List α)
    (s : State) : s.SameControl (xs.foldl f s) := by
  induction xs generalizing s with
  | nil => exact .rfl
  | cons x xs ih => exact (h s x).trans (ih _)

/-! ### CAUSE and answers -/

section
variable (s : State) (slot : List Byte)

@[simp] theorem State.setCause_areaBase (b : CauseBit) : (s.setCause b).bus.areaBase = s.bus.areaBase := by
  rw [State.setCause, BusInterface.withMessage_eq]
@[simp] theorem State.setCause_faulted (b : CauseBit) : (s.setCause b).bus.faulted = s.bus.faulted := by
  rw [State.setCause, BusInterface.withMessage_eq]
@[simp] theorem State.setCause_reads (b : CauseBit) : (s.setCause b).bus.reads = s.bus.reads := by
  rw [State.setCause, BusInterface.withMessage_eq]
@[simp] theorem State.setCause_snapshot (b : CauseBit) : (s.setCause b).bus.snapshot = s.bus.snapshot := by
  rw [State.setCause, BusInterface.withMessage_eq]

@[simp] theorem State.answerWith_engine_state (o : ReqOutcome) (fs : List (Nat × List Byte)) :
    (s.answerWith o fs).engine.state = s.engine.state := rfl
@[simp] theorem State.answerWith_engine_scan (o : ReqOutcome) (fs : List (Nat × List Byte)) :
    (s.answerWith o fs).engine.scan = s.engine.scan := rfl
@[simp] theorem State.answerWith_engine_copy (o : ReqOutcome) (fs : List (Nat × List Byte)) :
    (s.answerWith o fs).engine.copy = s.engine.copy := rfl
/-- An answer is taken only while the engine waits for it. -/
@[simp] theorem State.answerWith_waits (o : ReqOutcome) (fs : List (Nat × List Byte)) :
    (s.answerWith o fs).engine.Waits ↔ s.engine.Waits := by
  by_cases busy : s.engine.state = .busy <;> simp [State.answerWith, Engine.Waits, busy]

theorem State.SameControl.answerWith {s t : State} (h : s.SameControl t) (o : ReqOutcome)
    (fs : List (Nat × List Byte)) : s.SameControl (t.answerWith o fs) := by
  obtain ⟨⟨state, scan, copy, waits⟩, bus⟩ := h
  exact ⟨⟨state, scan, copy, (State.answerWith_waits ..).trans waits⟩, bus⟩

/-! ### The Timebase and the discipline -/

@[simp] theorem stepTo_sameControl (cause : StepCause) (total offset : Int) :
    s.SameControl (stepTo cause total offset s) := by simp [stepTo]

@[simp] theorem stepBy_sameControl (cause : StepCause) (offset ns : Int) :
    s.SameControl (stepBy cause offset ns s) := by simp [stepBy]

theorem carrySetTime_sameControl : s.SameControl (carrySetTime slot s) := by
  unfold carrySetTime
  dsimp only
  split
  · exact State.SameControl.rfl.answerWith ..
  · exact State.SameControl.answerWith (stepTo_sameControl { s with discipline := _ } ..) ..

theorem carryAdjustTime_sameControl : s.SameControl (carryAdjustTime slot s) := by
  unfold carryAdjustTime
  dsimp only
  split
  · simp
  · split <;> simp [adjustStep, adjustSlew]

theorem carrySetFrequency_sameControl : s.SameControl (carrySetFrequency slot s) := by simp [carrySetFrequency]

@[simp] theorem State.causeOnChange_sameControl (q : Quality) : s.SameControl (s.causeOnChange q) := by
  unfold State.causeOnChange
  split <;> simp

@[simp] theorem State.offerTime_sameControl (r : TimeRecord) : s.SameControl (s.offerTime r) := by
  simp [State.offerTime]

theorem captureEdge_sameControl (within : CycleFraction) : s.SameControl (captureEdge within s) := by
  unfold captureEdge
  split <;> simp

theorem processEdge_sameControl (e : Edge) : s.SameControl (processEdge e s) := by
  unfold processEdge
  dsimp only
  split <;> simp

theorem takeCorrection_sameControl (e : Edge) (m : Measured) (c : Correction) :
    s.SameControl (takeCorrection e m c s) := by
  have applied : s.SameControl (applyCorrection c s) := by cases c <;> simp [applyCorrection]
  unfold takeCorrection
  split
  · exact applied
  · simp [State.answerEdge]

@[simp] theorem completeAnswered_sameControl : s.SameControl (completeAnswered s) := by
  unfold completeAnswered
  split
  · split <;> simp [completeEdge]
  · simp

theorem carryDisciplineSet_sameControl : s.SameControl (carryDisciplineSet slot s) := by
  have applied (p : DisciplineParams) : s.SameControl (applyDiscipline p s) := by
    unfold applyDiscipline disableDiscipline
    split
    · simp
    · split
      · dsimp only
        split <;> simp [State.handSlewRate]
      · simp [State.handSlewRate]
  unfold carryDisciplineSet
  split <;> simp [applied]

/-! ### The ports -/

@[simp] theorem portNotice_sameControl (k : PortNo) (n : Nat) : s.SameControl (portNotice k n s) := by simp [portNotice]

@[simp] theorem abortFrame_sameControl (k : PortNo) : s.SameControl (abortFrame k s) := by
  rw [abortFrame_eq]
  split <;> simp

theorem changeLink_sameControl (k : PortNo) (link : LinkState) : s.SameControl (changeLink k link s) := by
  unfold changeLink
  dsimp only
  split
  · exact .rfl
  · split <;> split <;> simp

theorem latchFrame_sameControl (k : PortNo) (within : CycleFraction) : s.SameControl (latchFrame k within s) := by
  unfold latchFrame
  dsimp only
  split <;> simp

@[simp] theorem countError_sameControl (k : PortNo) : s.SameControl (countError k s) := by
  unfold countError
  dsimp only
  split <;> simp

theorem endFrame_sameControl (k : PortNo) (bytes : List Byte) : s.SameControl (endFrame k bytes s) := by
  have good (f : Frame) (u : State) : u.SameControl (goodFrame f u) := by
    unfold goodFrame
    dsimp only
    split
    · simp
    · split <;> simp
  have bad (f : Frame) (u : State) : u.SameControl (badFrame f u) := by
    unfold badFrame
    dsimp only
    split <;> simp
  have checked (f : Frame) (u : State) : u.SameControl (checkFrame f u) := by
    unfold checkFrame
    split
    · simp
    · split
      · simp
      · split
        · exact good f u
        · exact bad f u
  unfold endFrame
  dsimp only
  split
  · exact checked _ (s.setPort k _)
  · exact .rfl

theorem endWindow_sameControl (k : PortNo) (start : Count) : s.SameControl (endWindow k start s) := by
  unfold endWindow
  dsimp only
  split <;> simp

theorem carryPortSet_sameControl : s.SameControl (carryPortSet slot s) := by
  have applied (p : PortParams) : s.SameControl (applyPort p s) := by
    unfold applyPort
    dsimp only
    split
    · simp
    · split <;> simp [enablePort, disablePort]
  unfold carryPortSet
  split <;> simp [applied]

theorem carryPortReadmit_sameControl : s.SameControl (carryPortReadmit slot s) := by
  have readmitted (k : PortNo) : s.SameControl (readmit k s) := by
    unfold readmit
    dsimp only
    split
    · split <;> simp
    · simp
  unfold carryPortReadmit
  split <;> simp [readmitted]

/-! ### The Classifier -/

theorem classifyHead_sameControl (k : PortNo) : s.SameControl (classifyHead k s) := by
  have classified (f : Frame) (u : State) : u.SameControl (classify f u) := by
    unfold classify setAsideUnmapped setAsideForeign handToTable enterInput
    split
    · dsimp only
      split <;> simp
    · dsimp only
      split <;> simp
    · split <;> simp
  unfold classifyHead
  dsimp only
  split
  · exact classified _ (s.setPort k _)
  · exact .rfl
  · exact .rfl

@[simp] theorem changeMaps_sameControl (ports : List PortNo) (change : AddressMap → AddressMap) :
    s.SameControl (changeMaps ports change s) :=
  foldl_sameControl (f := fun t k => t.setMap k (change (t.map k))) (fun _ _ => .rfl) ports s

theorem carryMapAdd_sameControl : s.SameControl (carryMapAdd slot s) := by
  unfold carryMapAdd
  split
  · simp
  · split
    · simp
    · split <;> simp

theorem carryMapRemove_sameControl : s.SameControl (carryMapRemove slot s) := by
  unfold carryMapRemove
  dsimp only
  split
  · simp
  · split <;> simp

theorem carryPatternLoad_sameControl : s.SameControl (carryPatternLoad slot s) := by
  unfold carryPatternLoad
  dsimp only
  split <;> simp

theorem carryChannelSet_sameControl : s.SameControl (carryChannelSet slot s) := by
  unfold carryChannelSet
  split
  · simp
  · split
    · simp
    · split <;> simp

theorem carryChannelStart_sameControl : s.SameControl (carryChannelStart slot s) := by
  unfold carryChannelStart
  split
  · simp
  · dsimp only
    split <;> simp

/-! ### The Arbitration Table -/

theorem takeInput_sameControl (k : PortNo) : s.SameControl (takeInput k s) := by
  have refilled (u : State) : u.SameControl (refillInput k u) := by
    unfold refillInput enterInput
    split <;> simp
  have taken (f : Classified) (u : State) : u.SameControl (takeClassified f u) := by
    unfold takeClassified
    dsimp only
    split
    · simp
    · exact ((State.TableOnly.refl u).arbitrate f).sameControl
  unfold takeInput
  split
  · exact (State.SameControl.trans (t := s.setInput k none) .rfl (taken ..)).trans (refilled _)
  · exact .rfl

theorem takeExpiry_sameControl : s.SameControl (takeExpiry s) := by
  unfold takeExpiry
  split
  · exact ((State.TableOnly.refl s).removeEntry ..).sameControl.ite
  · exact .rfl

theorem carryChannelStop_sameControl : s.SameControl (carryChannelStop slot s) := by
  unfold carryChannelStop
  split
  · simp
  · split
    · have stopped (ch : ChannelNo) := ((State.TableOnly.refl s).stopChannel ch).sameControl
      simp [stopped]
    · simp

end

/-! ### Commands that act only in some states -/

section
variable {s t : State}

theorem execPpsEdge_sameControl {edge : EdgeKind} {within : CycleFraction} (e : execPpsEdge edge within s = .next t) :
    s.SameControl t := by
  cases e
  exact (captureEdge_sameControl s within).ite

theorem execEdgeProcess_sameControl (e : execEdgeProcess s = .next t) : s.SameControl t := by
  cases e
  split
  · exact (processEdge_sameControl s _).ite
  · exact .rfl

theorem execDisciplineCorrection_sameControl (e : execDisciplineCorrection s = .next t) : s.SameControl t := by
  cases e
  split
  · split
    · exact takeCorrection_sameControl ..
    · exact .rfl
    · exact .rfl
  · exact .rfl

theorem execHoldoverExpiry_sameControl (e : execHoldoverExpiry s = .next t) : s.SameControl t := by
  cases e
  exact State.SameControl.ite (by simp [enterHoldover])

theorem execErrorWindowEnd_sameControl {k : PortNo} (e : execErrorWindowEnd k s = .next t) : s.SameControl t := by
  cases e
  split
  · exact (endWindow_sameControl ..).ite
  · exact .rfl

end

end Sys2Proof.Machine
end

section
/-! SUPPORT. The coherence of the bus, the engine and the lanes: what an operation has to keep for it, and that the Lane
Writers, the Staging Buffer and the Request Engine keep it (R146, R151, R155 to R157, R162). -/

namespace Sys2Proof.Machine

/-! ### What the coherence rests on -/

/-- A lane before and after, on a bus that is FAULTED or not: it does not become HALTED on a NORMAL bus, and on a
FAULTED one it stays CLOSED or HALTED with no opening (R146). -/
structure Lane.Calm (faulted : Bool) (w v : Lane) : Prop where
  normal : faulted = false → w.state ≠ .halted → v.state ≠ .halted
  still : faulted = true → w.state.Still → w.opening = none → v.state.Still ∧ v.opening = none

theorem Lane.Calm.of_same {f : Bool} {w v : Lane} (state : v.state = w.state) (opening : v.opening = w.opening) :
    Lane.Calm f w v := ⟨fun _ h => state ▸ h, fun _ h o => ⟨state ▸ h, opening.trans o⟩⟩

/-- A lane that is neither CLOSED nor HALTED goes on to a state other than HALTED. -/
theorem Lane.Calm.of_moving {f : Bool} {w v : Lane} (moving : ¬w.state.Still) (running : v.state ≠ .halted) :
    Lane.Calm f w v := ⟨fun _ _ => running, fun _ still => absurd still moving⟩

/-- A lane that becomes CLOSED, whatever it was. -/
theorem Lane.Calm.of_closed {f : Bool} {w v : Lane} (closed : v.state = .closed) (opening : v.opening = w.opening) :
    Lane.Calm f w v := ⟨fun _ _ => by simp [closed], fun _ _ o => ⟨.inl closed, opening.trans o⟩⟩

theorem Lane.Calm.trans {f : Bool} {u v w : Lane} (h : Lane.Calm f u v) (g : Lane.Calm f v w) : Lane.Calm f u w :=
  ⟨fun n x => g.normal n (h.normal n x), fun n x o => g.still n (h.still n x o).1 (h.still n x o).2⟩

/-- From s to t the engine's state, scan and copy, AREA_BASE and the FAULTED state stay, no read and no snapshot comes
to be on a FAULTED bus, and every lane is calm. -/
structure State.KeepsBus (s t : State) : Prop where
  state : t.engine.state = s.engine.state
  scan : t.engine.scan = s.engine.scan
  copy : t.engine.copy = s.engine.copy
  waits : s.engine.Waits → t.engine.Waits
  areaBase : t.bus.areaBase = s.bus.areaBase
  faulted : t.bus.faulted = s.bus.faulted
  reads : s.bus.faulted = true → s.bus.reads = [] → t.bus.reads = []
  snapshot : s.bus.faulted = true → s.bus.snapshot = none → t.bus.snapshot = none
  lanes : ∀ l : LaneNo, Lane.Calm s.bus.faulted (s.lane l) (t.lane l)

/-- An operation of a block other than the Lane Writers. -/
theorem State.KeepsBus.of_same {s t : State} (control : s.SameControl t) (lanes : s.SameLanes t) : s.KeepsBus t := by
  obtain ⟨⟨state, scan, copy, waits⟩, area, faulted, reads, snapshot⟩ := control
  exact ⟨state, scan, copy, waits.mpr, area, faulted, fun _ none' => reads.trans none',
    fun _ none' => snapshot.trans none', fun l => lanes.lane l ▸ .of_same rfl rfl⟩

theorem State.KeepsBus.refl (s : State) : s.KeepsBus s := .of_same .rfl .rfl

theorem State.KeepsBus.trans {s t u : State} (h : s.KeepsBus t) (g : t.KeepsBus u) : s.KeepsBus u where
  state := g.state.trans h.state
  scan := g.scan.trans h.scan
  copy := g.copy.trans h.copy
  waits := g.waits ∘ h.waits
  areaBase := g.areaBase.trans h.areaBase
  faulted := g.faulted.trans h.faulted
  reads f n := g.reads (h.faulted.trans f) (h.reads f n)
  snapshot f n := g.snapshot (h.faulted.trans f) (h.snapshot f n)
  lanes l := (h.lanes l).trans (h.faulted ▸ g.lanes l)

/-- An operation of the Lane Writers that leaves every lane calm. -/
theorem State.LaneOnly.keepsBus {s t : State} (h : s.LaneOnly t)
    (lanes : ∀ l : LaneNo, Lane.Calm s.bus.faulted (s.lane l) (t.lane l)) : s.KeepsBus t where
  state := by rw [h.engine]
  scan := by rw [h.engine]
  copy := by rw [h.engine]
  waits := by rw [h.engine]; exact id
  areaBase := h.areaBase
  faulted := h.faulted
  reads := h.noReads
  snapshot _ none' := h.snapshot.trans none'
  lanes := lanes

/-- Reads and writes put out, CAUSE, and changes of the outstanding reads. -/
theorem State.BusOnly.keepsBus {s t : State} (h : s.BusOnly t) : s.KeepsBus t :=
  h.toLane.keepsBus fun l => by rw [h.eq]; exact .of_same rfl rfl

/-- The invariant is kept wherever that is. -/
theorem State.KeepsBus.busCoherent {s t : State} (k : s.KeepsBus t) (h : s.BusCoherent) : t.BusCoherent := by
  obtain ⟨aligned, stopped, busy, scans, answers, fault, normal⟩ := h
  refine ⟨by rw [k.areaBase]; exact aligned, by rw [k.state, k.areaBase, k.faulted]; exact stopped,
    by rw [k.state, k.copy]; exact busy, by rw [k.state, k.scan]; exact scans, k.waits answers, ?_, ?_⟩
  · intro faulted
    rw [k.faulted] at faulted
    obtain ⟨reads, snapshot, lanes⟩ := fault faulted
    exact ⟨k.reads faulted reads, k.snapshot faulted snapshot,
      fun l => (k.lanes l).still faulted (lanes l).1 (lanes l).2⟩
  · intro running l
    rw [k.faulted] at running
    exact (k.lanes l).normal running (normal running l)

/-! ### The Lane Writers -/

section
variable {s t : State} (h : s.KeepsBus t)
include h

theorem State.KeepsBus.setLane (l : LaneNo) {w : Lane} (calm : Lane.Calm t.bus.faulted (t.lane l) w) :
    s.KeepsBus (t.setLane l w) := by
  refine h.trans ((State.LaneOnly.refl.setLane l w).keepsBus fun j => ?_)
  by_cases same : l = j
  · subst same
    rw [State.setLane_lane_self]
    exact calm
  · rw [State.setLane_lane_of_ne t _ same]
    exact .of_same rfl rfl

theorem State.KeepsBus.setStage (l : LaneNo) (g : StagingLane) : s.KeepsBus (t.setStage l g) :=
  h.trans ((State.LaneOnly.refl.setStage l g).keepsBus fun _ => .of_same rfl rfl)
theorem State.KeepsBus.bumpBy (c : Counter) (n : Nat) : s.KeepsBus (t.bumpBy c n) :=
  h.trans ((State.LaneOnly.refl.bumpBy c n).keepsBus fun _ => .of_same rfl rfl)
theorem State.KeepsBus.bump (c : Counter) : s.KeepsBus (t.bump c) := h.bumpBy c 1
theorem State.KeepsBus.issueRead (p : ReadPurpose) (a : Address) (n : Nat) : s.KeepsBus (t.issueRead p a n) :=
  h.trans (State.BusOnly.refl.issueRead p a n).keepsBus
theorem State.KeepsBus.writeAt (a : Address) (bytes : List Byte) : s.KeepsBus (t.writeAt a bytes) :=
  h.trans (State.BusOnly.refl.writeAt a bytes).keepsBus
theorem State.KeepsBus.writeArea (o : Nat) (bytes : List Byte) : s.KeepsBus (t.writeArea o bytes) :=
  h.trans (State.BusOnly.refl.writeArea o bytes).keepsBus
theorem State.KeepsBus.setCause (bit : CauseBit) : s.KeepsBus (t.setCause bit) :=
  h.trans (State.BusOnly.refl.setCause bit).keepsBus
theorem State.KeepsBus.disownReads (which : ReadPurpose → Bool) : s.KeepsBus (t.disownReads which) :=
  h.trans (State.BusOnly.refl.disownReads which).keepsBus
theorem State.KeepsBus.dropRead (tag : Nat) : s.KeepsBus (t.dropRead tag) :=
  h.trans (State.BusOnly.refl.dropRead tag).keepsBus
theorem State.KeepsBus.noteAge (r : ReadOp) : s.KeepsBus (t.noteAge r) :=
  h.trans (State.BusOnly.refl.noteAge r).keepsBus
theorem State.KeepsBus.answerWith (o : ReqOutcome) (fs : List (Nat × List Byte)) : s.KeepsBus (t.answerWith o fs) :=
  h.trans (.of_same (State.SameControl.rfl.answerWith o fs) .rfl)

theorem State.KeepsBus.readOwner (l : LaneNo) : s.KeepsBus (readOwner l t) := by
  unfold Machine.readOwner
  dsimp only
  split
  · refine State.KeepsBus.issueRead (h.setLane l ?_) ..
    exact .of_same rfl rfl
  · exact h

theorem State.KeepsBus.seekPage (l : LaneNo) : s.KeepsBus (seekPage l t) := by
  unfold Machine.seekPage
  dsimp only
  split
  · exact h.readOwner l
  · exact h

theorem State.KeepsBus.reread (l : LaneNo) : s.KeepsBus (reread l t) := by
  unfold Machine.reread
  split
  · exact h.readOwner l
  · exact h

theorem State.KeepsBus.notifyClose (l : LaneNo) : s.KeepsBus (notifyClose l t) := by
  unfold Machine.notifyClose
  dsimp only
  split
  · refine State.KeepsBus.setCause (h.setLane l ?_) _
    exact .of_same rfl rfl
  · refine h.setLane l ?_
    exact .of_same rfl rfl

theorem State.KeepsBus.closePage (l : LaneNo) (reason : CloseReason) : s.KeepsBus (closePage l reason t) := by
  unfold Machine.closePage
  dsimp only
  split
  · refine (((((h.writeAt _ _).writeAt _ _).setLane l ?_).bump _).writeArea _ _).notifyClose l
    exact .of_same (by simp [Lane.afterClose]) (by simp [Lane.afterClose])
  · exact h

theorem State.KeepsBus.writeHead (l : LaneNo) : s.KeepsBus (writeHead l t) := by
  unfold Machine.writeHead
  dsimp only
  split
  · refine (((h.writeAt _ _).setLane l ?_).setStage _ _).bump _
    exact .of_same (by simp [Lane.afterWrite]) (by simp [Lane.afterWrite])
  · exact h
  · exact h

theorem State.KeepsBus.writeNext (l : LaneNo) : s.KeepsBus (writeNext l t) := by
  unfold Machine.writeNext
  split
  · split
    · exact h.writeHead l
    · exact (h.closePage l .full).seekPage l
  · exact h
  · exact h

/-- A STARVED lane that finds a page becomes OPEN (R139). -/
theorem State.KeepsBus.takePage (l : LaneNo) (a : Address) : s.KeepsBus (takePage l a t) := by
  refine (h.setLane l ?_).writeHead l
  by_cases starved : (t.lane l).state = .starved
  · exact .of_moving (by simp [starved]) (by simp [starved])
  · exact .of_same (by simp [starved]) rfl

theorem State.KeepsBus.announceRest (l : LaneNo) : s.KeepsBus (announceRest l t) := by
  unfold Machine.announceRest
  split
  · exact h.setCause _
  · exact h

theorem State.KeepsBus.endClose (l : LaneNo) (o : ReqOutcome) (lost : Nat) : s.KeepsBus (endClose l o lost t) := by
  refine (((h.closePage l .flush).announceRest l).setLane l ?_).answerWith ..
  exact .of_closed rfl rfl

theorem State.KeepsBus.closeWithLoss (l : LaneNo) : s.KeepsBus (closeWithLoss l t) := by
  refine ((((h.setStage l _).bumpBy _ _).disownReads _).setLane l ?_).endClose ..
  exact .of_same rfl rfl

theorem State.KeepsBus.formDropped (l : LaneNo) : s.KeepsBus (formDropped l t) := by
  unfold Machine.formDropped
  dsimp only
  split
  · exact h.setStage ..
  · exact h
  · exact h

theorem State.KeepsBus.admitRecord (l : LaneNo) (r : Record) : s.KeepsBus (admitRecord l r t) := by
  unfold Machine.admitRecord
  split
  · exact (h.formDropped l).setStage ..
  · exact h.setStage ..

theorem State.KeepsBus.dropRecord (l : LaneNo) (r : Record) : s.KeepsBus (dropRecord l r t) := (h.setStage _ _).bump _

theorem State.KeepsBus.takeOffer (o : Offer) : s.KeepsBus (takeOffer o t) := by
  have staged : s.KeepsBus (if t.needMet o.lane ((t.stage o.lane).need o.record)
      then Machine.admitRecord o.lane o.record t else Machine.dropRecord o.lane o.record t) := by
    split
    · exact h.admitRecord ..
    · exact h.dropRecord ..
  unfold Machine.takeOffer
  split
  · exact h.bump _
  · exact h.bump _
  · exact staged
  · exact staged
  · exact h.dropRecord ..

theorem State.KeepsBus.carryPartitionSet (slot : List Byte) : s.KeepsBus (carryPartitionSet slot t) := by
  have divided (a c : LaneNo → Nat) (ls : List LaneNo) :
      s.KeepsBus (ls.foldl (fun t l => setPartition l (a l) (c l) t) t) := by
    induction ls generalizing t with
    | nil => exact h
    | cons l ls ih => exact ih (h.setStage ..)
  unfold Machine.carryPartitionSet
  dsimp only
  split
  · exact h.answerWith ..
  · split
    · exact h.answerWith ..
    · exact (divided ..).answerWith ..

theorem State.KeepsBus.drainEnd (l : LaneNo) : s.KeepsBus (drainEnd l t) := by
  have sought := (h.formDropped l).seekPage l
  have written := (h.formDropped l).writeNext l
  unfold Machine.drainEnd
  dsimp only
  split
  · exact h.endClose ..
  · split <;> split
    · exact sought.endClose ..
    · exact sought
    · exact written.endClose ..
    · exact written

theorem State.KeepsBus.carryLaneClose (slot : List Byte) : s.KeepsBus (carryLaneClose slot t) := by
  have discarded (l : LaneNo) :
      s.KeepsBus (Machine.closeWithLoss l (t.setLane l { t.lane l with closeWritten := 0 })) := by
    refine (h.setLane l ?_).closeWithLoss l
    exact .of_same rfl rfl
  unfold Machine.carryLaneClose
  split
  · rename_i l discard _ _
    dsimp only
    split
    · exact h.answerWith ..
    · rename_i opened
      split
      · exact discarded l
      · exact h.setLane l (.of_moving (by simp [opened]) (by simp))
    · exact discarded l
    · exact h
    · exact h
  · exact h.answerWith ..
  · exact h.answerWith ..

/-- A lane is opened on a NORMAL bus only (R162). -/
theorem State.KeepsBus.carryLaneOpen (slot : List Byte) : s.KeepsBus (carryLaneOpen slot t) := by
  unfold Machine.carryLaneOpen
  split
  · exact h.answerWith ..
  · dsimp only
    split
    · exact h.answerWith ..
    · split
      · exact h.answerWith ..
      · split
        · exact h
        · rename_i running
          refine (h.setLane _ ?_).issueRead ..
          exact ⟨fun _ => id, fun faulted => absurd faulted running⟩

/-- The lane whose page list has been read had an opening. -/
theorem State.KeepsBus.pageListRead (l : LaneNo) (o : Opening) (pages : List Address)
    (opening : (t.lane l).opening ≠ none) : s.KeepsBus (pageListRead l o pages t) := by
  unfold Machine.pageListRead
  dsimp only
  split
  · refine (h.setLane l ?_).answerWith ..
    exact ⟨fun _ => id, fun _ _ none' => absurd none' opening⟩
  · refine ((h.setLane l ?_).setStage l _).answerWith ..
    exact ⟨fun _ _ => by simp [Lane.openedWith], fun _ _ none' => absurd none' opening⟩

theorem State.KeepsBus.ownerWordRead (l : LaneNo) (r : ReadOp) (word : BitVec 32) :
    s.KeepsBus (ownerWordRead l r word t) := by
  unfold Machine.ownerWordRead
  dsimp only
  split
  · exact h.takePage l _
  · split
    · rename_i opened
      exact (h.setLane l (.of_moving (by simp [opened]) (by simp))).bump _
    · refine h.setLane l ?_
      exact .of_same rfl rfl
    · exact (h.bump _).closeWithLoss l
    · exact h
    · exact h

theorem State.KeepsBus.ownerReadDone (l : LaneNo) (r : ReadOp) (word : BitVec 32) :
    s.KeepsBus (ownerReadDone l r word t) := by
  have noted := (h.dropRead r.tag).noteAge r
  unfold Machine.ownerReadDone
  dsimp only
  split
  · exact noted.ownerWordRead ..
  · exact noted.seekPage l

theorem State.KeepsBus.lingerEnd (l : LaneNo) : s.KeepsBus (lingerEnd l t) := (h.closePage l .linger).seekPage l

theorem State.KeepsBus.holdoffEnd (l : LaneNo) : s.KeepsBus (holdoffEnd l t) := by
  have quiet : s.KeepsBus (t.setLane l { t.lane l with pendingCloses := 0, holdoffAt := none }) := by
    refine h.setLane l ?_
    exact .of_same rfl rfl
  unfold Machine.holdoffEnd
  dsimp only
  split
  · exact quiet.setCause _
  · exact quiet

end

end Sys2Proof.Machine
end

section
/-! SUPPORT. Every command keeps the bus, the engine and the lanes coherent (R146, R151, R155 to R157, R162). -/

namespace Sys2Proof.Machine

/-! ### A NORMAL bus -/

/-- On a NORMAL bus the engine is STOPPED exactly without a Control Area, and no lane is HALTED (R146, R151). -/
theorem State.busCoherent_of_normal {s : State} (running : s.bus.faulted = false)
    (lanes : ∀ l : LaneNo, (s.lane l).state ≠ .halted) (aligned : s.bus.areaBase &&& 0xFFF#64 = 0)
    (stopped : s.engine.state = .stopped ↔ s.bus.areaBase = 0) (busy : s.engine.state = .busy ↔ s.engine.copy ≠ none)
    (scan : s.engine.scan ≠ none → s.engine.state = .idle) (waits : s.engine.Waits) : s.BusCoherent :=
  ⟨aligned, by simpa [running] using stopped, busy, scan, waits, by simp [running], fun _ => lanes⟩

theorem State.busCoherent_coldReset (s : State) : (coldReset s).BusCoherent := by
  refine State.busCoherent_of_normal rfl (fun l => ?_) ?_ ?_ ?_ ?_ ?_
  · rw [show (coldReset s).lane l = Lane.reset from State.reset_lane l]
    simp [Lane.reset]
  all_goals simp [coldReset, State.reset, Engine.reset, BusInterface.reset, Engine.Waits]

theorem State.busCoherent_functionReset (s : State) : (functionReset s).BusCoherent := by
  refine State.busCoherent_of_normal rfl (fun l => ?_) ?_ ?_ ?_ ?_ ?_
  · rw [show (functionReset s).lane l = Lane.reset from State.reset_lane l]
    simp [Lane.reset]
  all_goals
    simp [functionReset, State.reset, Engine.reset, BusInterface.functionReset, BusInterface.reset, Engine.Waits]

/-! ### The Request Engine -/

theorem areaAligned_and_low (v : BitVec 64) : areaAligned v &&& 0xFFF#64 = 0 := by
  simp [areaAligned, BitVec.and_assoc]

/-- AREA_BASE makes an engine that is not BUSY STOPPED for 0, and IDLE else, with its scan ended (R151, R156). -/
theorem Engine.withArea_eq {e : Engine} (free : e.state ≠ .busy) (base : BitVec 64) :
    ((e.withArea base).state = if base = 0 then .stopped else .idle) ∧ (e.withArea base).scan = none
      ∧ (e.withArea base).copy = e.copy ∧ (e.withArea base).answer = e.answer := by
  unfold Engine.withArea
  split
  · exact ⟨rfl, rfl, rfl, rfl⟩
  · split
    · exact ⟨rfl, rfl, rfl, rfl⟩
    · rename_i going
      refine ⟨?_, rfl, rfl, rfl⟩
      cases state : e.state with
      | stopped => exact absurd state going
      | idle => rfl
      | busy => exact absurd state free

section
variable {s : State} (h : s.BusCoherent)
include h

/-- An engine that runs while the engine before it ran, that is BUSY exactly with a copy, scans while IDLE and keeps no
answer, is coherent again (R155 to R157). -/
theorem State.BusCoherent.setEngine {e : Engine} (running : s.engine.state ≠ .stopped) (state : e.state ≠ .stopped)
    (busy : e.state = .busy ↔ e.copy ≠ none) (scan : e.scan ≠ none → e.state = .idle) (waits : e.Waits) :
    ({ s with engine := e } : State).BusCoherent := by
  obtain ⟨aligned, stopped, _, _, _, fault, normal⟩ := h
  exact ⟨aligned, iff_of_false state fun off => running (stopped.mpr off), busy, scan, waits, fault, normal⟩

/-- The engine of an IDLE one with another scan. -/
theorem State.BusCoherent.setScan (idle : s.engine.state = .idle) (scan : Option Scan) :
    ({ s with engine := { s.engine with scan := scan } } : State).BusCoherent := by
  obtain ⟨_, _, busy, _, answers, _⟩ := id h
  exact h.setEngine (by simp [idle]) (by simp [idle]) busy (fun _ => idle) answers

theorem State.BusCoherent.readSlotState (idle : s.engine.state = .idle) (scan : Scan) :
    (readSlotState scan s).BusCoherent :=
  (State.BusOnly.refl.issueRead ..).keepsBus.busCoherent (h.setScan idle scan)

theorem State.BusCoherent.beginScan : (beginScan s).BusCoherent := by
  unfold Machine.beginScan
  split
  · rename_i ready
    exact h.readSlotState ready.1 _
  · exact h

theorem State.BusCoherent.passSlot (idle : s.engine.state = .idle) (scan : Scan) : (passSlot scan s).BusCoherent := by
  unfold Machine.passSlot
  split
  · exact h.setScan idle none
  · exact h.readSlotState idle _

/-- The engine that takes a slot is BUSY with its copy (R157). -/
theorem State.BusCoherent.takeSlot (idle : s.engine.state = .idle) (scan : Scan) (slot : List Byte) :
    (takeSlot scan slot s).BusCoherent := by
  have written := State.BusOnly.refl (s := s).writeAt (s.slotAddress scan.slot) (leBytes 1 2) |>.keepsBus
  refine (written.busCoherent h).setEngine ?_ (by simp) (by simp) (by simp) (by simp [Engine.Waits])
  rw [written.state, idle]
  simp

/-- A wanted read of a scan in progress finds the engine IDLE (R156). -/
theorem State.BusCoherent.slotReadDone (r : ReadOp) (bytes : List Byte) : (slotReadDone r bytes s).BusCoherent := by
  obtain ⟨_, _, _, scans, _⟩ := id h
  have dropped := (State.KeepsBus.refl s).dropRead r.tag
  have noted := dropped.noteAge r
  unfold Machine.slotReadDone
  dsimp only
  split
  · rename_i scan _ scanning
    have idle : s.engine.state = .idle := scans (by simp [scanning])
    have ready := noted.busCoherent h
    have idle' := noted.state.trans idle
    split
    · unfold slotWholeRead
      split
      · exact ready.takeSlot idle' ..
      · exact ready.passSlot idle' _
    · unfold slotStateRead
      split
      · exact (noted.issueRead ..).busCoherent h
      · exact ready.passSlot idle' _
  · exact dropped.busCoherent h
  · exact dropped.busCoherent h

/-- A completion of the BUSY engine leaves it IDLE, without copy, answer and scan, and a scan may follow (R157). -/
theorem State.BusCoherent.completeRequest (busy : s.engine.state = .busy) (slot : List Byte) (a : Answer) :
    (completeRequest slot a s).BusCoherent := by
  unfold Machine.completeRequest
  dsimp only
  generalize ([_, _] : List Run) = body
  have written := (((State.BusOnly.refl (s := s).issueWrite body).writeAt (s.slotAddress s.engine.lastSlot + 2)
    (leBytes 1 a.outcome.code)).writeAt (s.slotAddress s.engine.lastSlot) (leBytes 1 3)).setCause .request |>.keepsBus
  refine State.BusCoherent.beginScan (State.BusCoherent.setEngine (written.busCoherent h) ?_ ?_ ?_ ?_ ?_)
  · rw [written.state, busy]
    simp
  · simp
  · simp
  · simp
  · simp [Engine.Waits]

/-! ### AREA_BASE and the snapshot -/

/-- AREA_BASE takes a value on a NORMAL bus while the engine is not BUSY: the engine is then STOPPED exactly for 0
(R151, R156). -/
theorem State.BusCoherent.setArea (running : s.bus.faulted = false) (free : s.engine.state ≠ .busy) (v : BitVec 64) :
    (setArea v s).BusCoherent := by
  obtain ⟨_, _, busy, _, answers, _, normal⟩ := h
  have copy : s.engine.copy = none := by simpa [free] using busy
  have answer : s.engine.answer = none := by simpa [free] using answers
  obtain ⟨state, scan', copy', answer'⟩ := Engine.withArea_eq free (areaAligned v)
  have idle : (s.engine.withArea (areaAligned v)).state ≠ .busy := by
    rw [state]
    split <;> simp
  refine State.busCoherent_of_normal running (normal running) (areaAligned_and_low v) ?_ ?_ ?_ ?_
  · show (s.engine.withArea (areaAligned v)).state = .stopped ↔ areaAligned v = 0
    rw [state]
    simp
  · exact iff_of_false idle (not_not.mpr (copy'.trans copy))
  · exact fun some' => absurd scan' some'
  · exact fun some' => absurd (answer'.trans answer) some'

theorem State.BusCoherent.writeArea (access : AreaWrite) : (Machine.writeArea access s).BusCoherent := by
  have presented (v : BitVec 64) : (presentArea v s).BusCoherent := by
    have used : ({ s with bus := { s.bus with heldLower := none } } : State).BusCoherent := h
    unfold presentArea
    dsimp only
    split
    · rename_i takes
      simp only [State.takesArea, Bool.and_eq_true, Bool.not_eq_true', decide_eq_true_eq] at takes
      obtain ⟨⟨running, _⟩, free⟩ := takes
      exact used.setArea running free v
    · exact used
  cases access with
  | whole v => exact presented v
  | lowerHalf v => exact h
  | upperHalf v => exact presented _

/-- A copy that runs does so on a NORMAL bus (R162). -/
theorem State.BusCoherent.running_of_snapshot {c : SnapshotCopy} (copying : s.bus.snapshot = some c) :
    s.bus.faulted = false := by
  obtain ⟨_, _, _, _, _, fault, _⟩ := h
  cases faulted : s.bus.faulted with
  | false => rfl
  | true =>
    obtain ⟨_, none', _⟩ := fault faulted
    rw [none'] at copying
    cases copying

omit h in
/-- On a NORMAL bus the snapshot goes on or ends as it likes. -/
theorem State.keepsBus_setSnapshot (running : s.bus.faulted = false) (c : Option SnapshotCopy) :
    s.KeepsBus { s with bus := { s.bus with snapshot := c } } :=
  ⟨rfl, rfl, rfl, id, rfl, rfl, fun _ => id, fun faulted => by simp [running] at faulted, fun _ => .of_same rfl rfl⟩

omit h in
theorem copyCounter_keepsBus (running : s.bus.faulted = false) (c : SnapshotCopy) (name : Counter) :
    s.KeepsBus (copyCounter c name s) := by
  have cleared : s.KeepsBus (if c.clear then { s with counters := s.counters.put name 0 } else s) := by
    split
    · exact .of_same .rfl .rfl
    · exact .refl s
  have written := cleared.writeAt (c.buffer + BitVec.ofNat 64 (8 * c.next)) (leBytes 8 (s.counters.get name).toNat)
  have after := State.keepsBus_setSnapshot (written.faulted.trans running)
  unfold copyCounter afterCopy
  dsimp only
  split
  · exact written.trans (after _)
  · exact (written.trans (after none)).answerWith ..

omit h in
theorem carrySnapshot_keepsBus (slot : List Byte) : s.KeepsBus (carrySnapshot slot s) := by
  unfold carrySnapshot
  dsimp only
  split
  · split
    · exact (State.KeepsBus.refl s).answerWith ..
    · split
      · exact .refl s
      · rename_i running
        exact State.keepsBus_setSnapshot (by simpa using running) _
  · exact (State.KeepsBus.refl s).answerWith ..

omit h in
theorem refreshStatus_keepsBus : s.KeepsBus (refreshStatus s) := by
  have written (fields : List (Nat × List Byte)) (u : State) (k : s.KeepsBus u) :
      s.KeepsBus (fields.foldl (fun t f => t.writeArea f.1 f.2) u) := by
    induction fields generalizing u with
    | nil => exact k
    | cons f fs ih => exact ih _ (k.writeArea ..)
  have issued := written (statusFields s (s.bus.refreshCount + 1)) s (.refl s)
  unfold refreshStatus
  dsimp only
  generalize (statusFields s (s.bus.refreshCount + 1)).foldl (fun t f => t.writeArea f.1 f.2) s = u at issued
  exact issued.trans (.of_same .rfl .rfl)

omit h in
theorem setEnables_keepsBus (v : BitVec 32) : s.KeepsBus (setEnables v s) := by
  refine .of_same ?_ .rfl
  unfold setEnables
  rw [BusInterface.withMessage_eq]
  exact .rfl

/-! ### Read failures -/

omit h in
theorem Lane.halt_still (w : Lane) : w.halt.state.Still ∧ w.halt.opening = none := by
  unfold Lane.halt
  split <;> simp [LaneState.Still, *]

/-- The first read failure leaves the bus FAULTED, the engine STOPPED and every lane CLOSED or HALTED (R146, R162). -/
theorem State.BusCoherent.enterFaulted (r : ReadOp) : (enterFaulted r s).BusCoherent := by
  obtain ⟨aligned, _⟩ := h
  refine (State.BusOnly.refl.setCause _).keepsBus.busCoherent ⟨aligned, by simp [Engine.fault], by simp [Engine.fault],
    by simp [Engine.fault], by simp [Engine.fault], fun _ => ⟨rfl, rfl, fun l => ?_⟩, by simp⟩
  fin_cases l <;> exact Lane.halt_still _

theorem State.BusCoherent.failRead (r : ReadOp) : (failRead r s).BusCoherent := by
  unfold Machine.failRead
  split
  · exact ((State.KeepsBus.refl s).dropRead _).busCoherent h
  · exact h.enterFaulted r

/-! ### Commands that act only in some states -/

/-- What a command does only where a condition holds. -/
theorem State.BusCoherent.ite {u : State} {c : Prop} [Decidable c] (g : u.BusCoherent) :
    (if c then u else s).BusCoherent := by
  split
  · exact g
  · exact h

/-- An operation that leaves the engine, the bus and the lanes alone. -/
theorem State.BusCoherent.same {t : State} (control : s.SameControl t) (lanes : s.SameLanes t) : t.BusCoherent :=
  (State.KeepsBus.of_same control lanes).busCoherent h

/-- An owner whose action keeps what the coherence rests on. -/
theorem State.BusCoherent.carryOut (code : Nat) {act : List Byte → State → State}
    (acts : ∀ slot u, State.KeepsBus u (act slot u)) : (s.carryOut code act).BusCoherent := by
  rcases s.carryOut_cases code act with e | ⟨slot, e⟩ <;> rw [e]
  · exact h
  · exact (State.KeepsBus.trans (.of_same s.begun_sameControl .rfl) (acts slot s.begun)).busCoherent h

/-- An owner whose action leaves the engine, the bus and the lanes alone. -/
theorem State.BusCoherent.carryOut_same (code : Nat) {act : List Byte → State → State}
    (control : ∀ slot u, State.SameControl u (act slot u)) (lanes : ∀ slot u, State.SameLanes u (act slot u)) :
    (s.carryOut code act).BusCoherent :=
  h.carryOut code fun slot u => .of_same (control slot u) (lanes slot u)

variable {t : State}

theorem State.BusCoherent.execSetEnables {v : BitVec 32} (e : execSetEnables v s = .next t) : t.BusCoherent := by
  cases e
  split
  · exact State.busCoherent_functionReset s
  · exact (setEnables_keepsBus v).busCoherent h

theorem State.BusCoherent.execNudge (e : execNudge s = .next t) : t.BusCoherent := by
  rw [← Host.Outcome.next.inj e]
  have scanned := h.beginScan
  generalize Machine.beginScan s = u at scanned
  induction List.finRange 4 generalizing u with
  | nil => exact scanned
  | cons l ls ih => exact ih _ (((State.KeepsBus.refl u).reread l).busCoherent scanned)

theorem State.BusCoherent.execCounterCopy (e : execCounterCopy s = .next t) : t.BusCoherent := by
  cases e
  split
  · rename_i copying
    split
    · exact (copyCounter_keepsBus (h.running_of_snapshot copying) ..).busCoherent h
    · exact h
  · exact h

theorem State.BusCoherent.execBadRequest (e : execBadRequest s = .next t) : t.BusCoherent := by
  cases e
  split
  · rename_i busy _
    split
    · exact h
    · exact h.completeRequest busy ..
  · exact h

theorem State.BusCoherent.execRequestComplete (e : execRequestComplete s = .next t) : t.BusCoherent := by
  cases e
  split
  · rename_i busy _ _
    exact h.completeRequest busy ..
  · exact h

theorem State.BusCoherent.execSlotReadDone {tag : Nat} {bytes : List Byte}
    (e : execSlotReadDone tag bytes s = .next t) : t.BusCoherent := by
  cases e
  split
  · exact h.ite (h.slotReadDone ..)
  · exact h

theorem State.BusCoherent.execPageListReadDone {tag : Nat} {bytes : List Byte}
    (e : execPageListReadDone tag bytes s = .next t) : t.BusCoherent := by
  cases e
  split
  · rename_i r _
    split
    · rename_i l _
      split
      · rename_i o opening
        have noted := ((State.KeepsBus.refl s).dropRead tag).noteAge r
        exact h.ite ((noted.pageListRead l o _ (by simp [opening])).busCoherent h)
      · exact h
    · exact h
    · exact h
    · exact h
  · exact h

theorem State.BusCoherent.execOfferRecord {position : Nat} (e : execOfferRecord position s = .next t) :
    t.BusCoherent := by
  cases e
  split
  · rename_i o _
    have begun : s.KeepsBus { s with offers := s.offers.eraseIdx position } := .of_same .rfl .rfl
    exact h.ite (((begun.takeOffer o).seekPage o.lane).busCoherent h)
  · exact h

theorem State.BusCoherent.execOwnerWordReadDone {tag : Nat} {word : BitVec 32}
    (e : execOwnerWordReadDone tag word s = .next t) : t.BusCoherent := by
  cases e
  split
  · split
    · split
      · exact h
      · exact ((State.KeepsBus.refl s).ownerReadDone ..).busCoherent h
    · exact h
    · exact h
    · exact h
  · exact h

theorem State.BusCoherent.execReadFailure {tag : Nat} (e : execReadFailure tag s = .next t) : t.BusCoherent := by
  cases e
  split
  · split
    · exact h
    · exact h.failRead _
  · exact h

theorem State.BusCoherent.execReadLimitExpiry {tag : Nat} (e : execReadLimitExpiry tag s = .next t) :
    t.BusCoherent := by
  cases e
  split
  · exact h.ite (h.failRead _)
  · exact h

/-! ### Every command -/

theorem exec_keeps_busCoherent (c : Instr) (e : exec c s = .next t) : t.BusCoherent := by
  have k := State.KeepsBus.refl s
  cases c with
  | coldReset => cases e; exact State.busCoherent_coldReset s
  | functionReset => cases e; exact State.busCoherent_functionReset s
  | oscillatorCycleEnd => cases e; exact h.same .rfl .rfl
  | linkChange port link =>
    cases e; exact h.same (changeLink_sameControl s port link) (changeLink_sameLanes s port link)
  | frameFirstByte port within =>
    cases e; exact h.same (latchFrame_sameControl s port within) (latchFrame_sameLanes s port within)
  | endOfFrame port bytes => cases e; exact h.same (endFrame_sameControl s port bytes) (endFrame_sameLanes s port bytes)
  | errorWindowEnd port => exact h.same (execErrorWindowEnd_sameControl e) (execErrorWindowEnd_sameLanes e)
  | classifyFrame port => cases e; exact h.same (classifyHead_sameControl s port) (classifyHead_sameLanes s port)
  | tableTakeFrame port => cases e; exact h.same (takeInput_sameControl s port) (takeInput_sameLanes s port)
  | expiry => cases e; exact h.same (takeExpiry_sameControl s) (takeExpiry_sameLanes s)
  | ppsEdge edge within => exact h.same (execPpsEdge_sameControl e) (execPpsEdge_sameLanes e)
  | edgeProcess => exact h.same (execEdgeProcess_sameControl e) (execEdgeProcess_sameLanes e)
  | disciplineCorrection =>
    exact h.same (execDisciplineCorrection_sameControl e) (execDisciplineCorrection_sameLanes e)
  | edgeComplete => cases e; exact h.same (completeAnswered_sameControl s) (completeAnswered_sameLanes s)
  | holdoverExpiry => exact h.same (execHoldoverExpiry_sameControl e) (execHoldoverExpiry_sameLanes e)
  | setTime =>
    cases e; exact h.carryOut_same _ (fun _ _ => carrySetTime_sameControl ..) fun _ _ => carrySetTime_sameLanes ..
  | adjustTime =>
    cases e; exact h.carryOut_same _ (fun _ _ => carryAdjustTime_sameControl ..) fun _ _ => carryAdjustTime_sameLanes ..
  | setFrequency =>
    cases e
    exact h.carryOut_same _ (fun _ _ => carrySetFrequency_sameControl ..) fun _ _ => carrySetFrequency_sameLanes ..
  | disciplineSet =>
    cases e
    exact h.carryOut_same _ (fun _ _ => carryDisciplineSet_sameControl ..) fun _ _ => carryDisciplineSet_sameLanes ..
  | portSet =>
    cases e; exact h.carryOut_same _ (fun _ _ => carryPortSet_sameControl ..) fun _ _ => carryPortSet_sameLanes ..
  | portReadmit =>
    cases e
    exact h.carryOut_same _ (fun _ _ => carryPortReadmit_sameControl ..) fun _ _ => carryPortReadmit_sameLanes ..
  | mapAdd =>
    cases e; exact h.carryOut_same _ (fun _ _ => carryMapAdd_sameControl ..) fun _ _ => carryMapAdd_sameLanes ..
  | mapRemove =>
    cases e; exact h.carryOut_same _ (fun _ _ => carryMapRemove_sameControl ..) fun _ _ => carryMapRemove_sameLanes ..
  | patternLoad =>
    cases e
    exact h.carryOut_same _ (fun _ _ => carryPatternLoad_sameControl ..) fun _ _ => carryPatternLoad_sameLanes ..
  | channelSet =>
    cases e; exact h.carryOut_same _ (fun _ _ => carryChannelSet_sameControl ..) fun _ _ => carryChannelSet_sameLanes ..
  | channelStart =>
    cases e
    exact h.carryOut_same _ (fun _ _ => carryChannelStart_sameControl ..) fun _ _ => carryChannelStart_sameLanes ..
  | channelStop =>
    cases e
    exact h.carryOut_same _ (fun _ _ => carryChannelStop_sameControl ..) fun _ _ => carryChannelStop_sameLanes ..
  | laneOpen => cases e; exact h.carryOut _ fun slot u => (State.KeepsBus.refl u).carryLaneOpen slot
  | pageListReadDone read bytes => exact h.execPageListReadDone e
  | laneClose => cases e; exact h.carryOut _ fun slot u => (State.KeepsBus.refl u).carryLaneClose slot
  | closeDrainEnd lane => cases e; exact h.ite ((k.drainEnd lane).busCoherent h)
  | partitionSet => cases e; exact h.carryOut _ fun slot u => (State.KeepsBus.refl u).carryPartitionSet slot
  | countersSnapshot => cases e; exact h.carryOut _ fun slot _ => carrySnapshot_keepsBus slot
  | counterCopy => exact h.execCounterCopy e
  | badRequest => exact h.execBadRequest e
  | scanTimer =>
    cases e
    have marked : ({ s with bus := { s.bus with scanTaken := true } } : State).BusCoherent := h
    exact h.ite marked.beginScan
  | nudge => exact h.execNudge e
  | slotReadDone read bytes => exact h.execSlotReadDone e
  | requestComplete => exact h.execRequestComplete e
  | areaBaseWrite access => cases e; exact h.writeArea access
  | setEnables value => exact h.execSetEnables e
  | causeRead => cases e; exact h.same .rfl .rfl
  | ignoredRegisterWrite offset value => cases e; exact h
  | statusRefresh =>
    cases e
    have marked : ({ s with bus := { s.bus with refreshTaken := true } } : State).BusCoherent := h
    exact h.ite (refreshStatus_keepsBus.busCoherent marked)
  | readFailure read => exact h.execReadFailure e
  | readLimitExpiry read => exact h.execReadLimitExpiry e
  | offerRecord position => exact h.execOfferRecord e
  | ownerWordReadDone read word => exact h.execOwnerWordReadDone e
  | starvedReread lane => cases e; exact h.ite ((k.reread lane).busCoherent h)
  | writeRecord lane => cases e; exact h.ite ((k.writeNext lane).busCoherent h)
  | lingerExpiry lane => cases e; exact h.ite ((k.lingerEnd lane).busCoherent h)
  | holdoffExpiry lane => cases e; exact h.ite ((k.holdoffEnd lane).busCoherent h)

end

/-- Settles O57: what each command may do to the bus, the engine and the lanes, and that each of it keeps them
coherent. -/
theorem stepKeepsTheBusCoherent : Obligations.StepKeepsTheBusCoherent := by
  intro s t h e
  rcases step_next_cases e with rfl | ⟨c, rest, _, he⟩
  · exact h
  · exact exec_keeps_busCoherent (s := { s with pending := rest }) h c he

end Sys2Proof.Machine
end

section
/-! SUPPORT. The Staging Buffer, by value: the order of offers, the DROPPED record, admission and dropping, and what a
lane owes (R129 to R135). -/

namespace Sys2Proof.Machine

/-! ### The order of offers -/

/-- Only the GAP and LINE_MISS records of an older epoch predate a STEP record (R126). -/
theorem Record.predates_eq_false_iff (r step : Record) :
    r.predates step = false ↔ ((∃ x, r = .gap x) ∨ ∃ x, r = .lineMiss x) →
      (step.dated.epoch - r.dated.epoch).toNat = 0 ∨ 32768 ≤ (step.dated.epoch - r.dated.epoch).toNat := by
  have older (later : Nat) : decide (1 ≤ later ∧ later < 32768) = false ↔ later = 0 ∨ 32768 ≤ later := by
    rw [decide_eq_false_iff_not]
    omega
  unfold Record.predates
  cases r with
  | gap x => simpa using older _
  | lineMiss x => simpa using older _
  | arrival x | partner x | resync x | dropped x | step x | port x | time x => simp

/-- Two records of one frame, both on that frame's lane (R110). -/
theorem sameFrame_eq_false_iff (x y : Option FrameTag) (a b : LaneNo) :
    sameFrame x y a b = false ↔ ∀ f : FrameTag, x = some f → a = f.lane → y = some f → b ≠ f.lane := by
  cases x with
  | none => simp [sameFrame]
  | some f => simp only [sameFrame, decide_eq_false_iff_not, not_and, Option.some.injEq, forall_eq']; tauto

theorem Record.isDisciplineStep_iff (r : Record) :
    r.isDisciplineStep = true ↔ ∃ x : StepRecord, r = .step x ∧ x.cause = .discipline := by
  cases r <;> simp [Record.isDisciplineStep]

theorem Record.isSteppedTime_iff (r : Record) :
    r.isSteppedTime = true ↔ ∃ y : TimeRecord, r = .time y ∧ y.stepped = true := by
  cases r <;> simp [Record.isSteppedTime]

/-- The STEP record of a discipline step, and the TIME record of a stepping edge (R47). -/
theorem stepPrecedesTime_eq_false_iff (r q : Record) :
    (r.isDisciplineStep && q.isSteppedTime) = false ↔ ∀ (x : StepRecord) (y : TimeRecord),
      r = .step x → q = .time y → x.cause = .discipline → y.stepped = false := by
  rw [← Bool.not_eq_true, Bool.and_eq_true, Record.isDisciplineStep_iff, Record.isSteppedTime_iff]
  constructor
  · intro free x y step time cause
    exact eq_false_of_ne_true fun stepped => free ⟨⟨x, step, cause⟩, y, time, stepped⟩
  · rintro free ⟨⟨x, step, cause⟩, y, time, stepped⟩
    exact absurd stepped (by simp [free x y step time cause])

/-- Nothing orders an offer after an earlier one (R15, R28, R47, R68, R110, R126, log 10). -/
abbrev Offer.Unordered (a o : Offer) : Prop :=
  (∀ k : PortNo, a.source = .port k → o.source ≠ .port k)
    ∧ (∀ (k : PortNo) (c d : ChannelNo), a.source = .classifier k c → o.source ≠ .classifier k d)
    ∧ (∀ (c : ChannelNo) (x y : Option FrameTag), a.source = .table c x → o.source ≠ .table c y)
    ∧ (∀ (c d : ChannelNo) (x : FrameTag), a.source = .table c (some x) → a.lane = x.lane →
        o.source = .table d (some x) → o.lane ≠ x.lane)
    ∧ (a.source = .discipline → o.source ≠ .discipline)
    ∧ (a.source = .timebase → o.source = .timebase → a.lane ≠ o.lane)
    ∧ (∀ (c : ChannelNo) (x : Option FrameTag), a.source = .timebase → o.source = .table c x → a.lane = o.lane →
        ((∃ r, o.record = .gap r) ∨ ∃ r, o.record = .lineMiss r) →
        let later := (a.record.dated.epoch - o.record.dated.epoch).toNat
        later = 0 ∨ 32768 ≤ later)
    ∧ (∀ (x : StepRecord) (y : TimeRecord), a.source = .timebase → o.source = .discipline →
        a.record = .step x → o.record = .time y → x.cause = .discipline → y.stepped = false)

theorem mustPrecede_eq_false_iff (a o : Offer) : mustPrecede a o = false ↔ a.Unordered o := by
  obtain ⟨la, sa, ra⟩ := a
  obtain ⟨lo, so, ro⟩ := o
  cases sa with
  | port k =>
    cases so with
    | port j => simpa [mustPrecede, Offer.Unordered] using not_congr eq_comm
    | classifier _ _ | table _ _ | timebase | discipline => simp [mustPrecede, Offer.Unordered]
  | classifier k c =>
    cases so with
    | classifier j d =>
      have same : k ≠ j ↔ ∀ (i : PortNo) (b e : ChannelNo), k = i → c = b → j = i → d ≠ e :=
        ⟨fun ne _ _ _ eq _ eq' _ => ne (eq.trans eq'.symm), fun all eq => all k c d rfl rfl eq.symm rfl⟩
      simpa [mustPrecede, Offer.Unordered] using same
    | port _ | table _ _ | timebase | discipline => simp [mustPrecede, Offer.Unordered]
  | table c x =>
    cases so with
    | table d y =>
      rw [mustPrecede, Bool.or_eq_false_iff, sameFrame_eq_false_iff, decide_eq_false_iff_not]
      have same : c ≠ d ↔ ∀ (b : ChannelNo) (v w : Option FrameTag), c = b → x = v → d = b → y ≠ w :=
        ⟨fun ne _ _ _ eq _ eq' _ => ne (eq.trans eq'.symm), fun all eq => all c x y rfl rfl eq.symm rfl⟩
      have framed : (∀ f : FrameTag, x = some f → la = f.lane → y = some f → lo ≠ f.lane) ↔
          ∀ (b e : ChannelNo) (f : FrameTag), c = b → x = some f → la = f.lane → d = e → y = some f → lo ≠ f.lane :=
        ⟨fun all _ _ f _ hx ha _ hy => all f hx ha hy, fun all f hx ha hy => all c d f rfl hx ha rfl hy⟩
      simpa [Offer.Unordered] using and_congr same framed
    | port _ | classifier _ _ | timebase | discipline => simp [mustPrecede, Offer.Unordered]
  | timebase =>
    cases so with
    | table d y =>
      rw [mustPrecede, Bool.and_eq_false_imp, Record.predates_eq_false_iff]
      simp [Offer.Unordered]
    | discipline =>
      rw [mustPrecede, stepPrecedesTime_eq_false_iff]
      simp [Offer.Unordered]
    | port _ | classifier _ _ | timebase => simp [mustPrecede, Offer.Unordered]
  | discipline => cases so <;> simp [mustPrecede, Offer.Unordered]

theorem State.offerReady_iff (s : State) (i : Nat) (o : Offer) :
    s.offerReady i o = true ↔ ∀ a ∈ s.offers.take i, a.Unordered o := by
  simp only [State.offerReady, List.all_eq_true, Bool.not_eq_true', mustPrecede_eq_false_iff]

/-! ### Kinds of record -/

theorem Record.isArrival_iff (r : Record) : r.isArrival = true ↔ ∃ x, r = .arrival x := by
  cases r <;> simp [Record.isArrival]

theorem Record.isDropped_iff (r : Record) : r.isDropped = true ↔ ∃ x, r = .dropped x := by
  cases r <;> simp [Record.isDropped]

theorem Record.ownTime_iff (r : Record) :
    r.ownTime = true ↔ (∃ x, r = .arrival x) ∨ (∃ x, r = .partner x) ∨ (∃ x, r = .gap x) ∨ (∃ x, r = .lineMiss x)
      ∨ ∃ x, r = .time x ∧ x.event = .edge := by
  cases r <;> simp [Record.ownTime]

/-- A record that is not DROPPED accounts for itself (R135). -/
theorem Record.accounts_of_not_dropped {r : Record} (h : r.isDropped = false) : r.accounts = 1 := by
  cases r with
  | dropped x => cases h
  | arrival x | partner x | gap x | lineMiss x | resync x | step x | port x | time x => rfl

/-- A DROPPED record accounts for the records that it reports (R135). -/
theorem Record.accounts_dropped (r : DroppedRecord) : (Record.dropped r).accounts = r.dropped := rfl

/-! ### The DROPPED record -/

/-- The DROPPED record that a tally with both times yields at a reading (R134). -/
def Tally.report (t : Tally) (first last : DropTime) (now : DatedTime) : DroppedRecord :=
  { dropped := saturated t.dropped, arrivals := saturated t.arrivals, first := first, last := last, time := now }

/-- What a tally with a last time keeps after its report (R134). -/
def Tally.unreported (t : Tally) (last : DropTime) : Tally :=
  if t.dropped ≤ 4294967295 ∧ t.arrivals ≤ 4294967295 then { dropped := 0, arrivals := 0, first := none, last := none }
  else { dropped := t.dropped - saturated t.dropped, arrivals := t.arrivals - saturated t.arrivals
         first := some last, last := some last }

theorem Tally.afterReport_eq {t : Tally} {last : DropTime} (timed : t.last = some last) :
    t.afterReport = t.unreported last := by
  simp only [Tally.afterReport, Tally.unreported, Tally.empty, timed]

section
variable {s : State} {l : LaneNo} {first last : DropTime}

theorem formDropped_eq (timed : (s.stage l).tally.first = some first) (timed' : (s.stage l).tally.last = some last) :
    formDropped l s = s.setStage l { s.stage l with
      fifo := (s.stage l).fifo ++ [.dropped ((s.stage l).tally.report first last s.reading)]
      tally := (s.stage l).tally.unreported last } := by
  simp only [formDropped, timed, timed', Tally.report, Tally.afterReport_eq timed']

/-- A report and what stays tallied account together for the tally (R134, R135). -/
theorem Tally.report_dropped_add (t : Tally) (first last : DropTime) (now : DatedTime) :
    (t.report first last now).dropped + (t.unreported last).dropped = t.dropped := by
  unfold Tally.report Tally.unreported saturated
  split <;> dsimp only <;> omega

/-- A tally that is not empty holds both its times (R133). -/
theorem Tally.Coherent.timed {t : Tally} (h : t.Coherent) (some' : 0 < t.dropped) :
    ∃ first last : DropTime, t.first = some first ∧ t.last = some last := by
  obtain ⟨_, empty, both⟩ := h
  have first : t.first ≠ none := fun none' => some'.ne' (empty.mpr none')
  obtain ⟨first', eq⟩ := Option.ne_none_iff_exists'.mp first
  obtain ⟨last', eq'⟩ := Option.ne_none_iff_exists'.mp (first ∘ both.mpr)
  exact ⟨first', last', eq, eq'⟩

/-! ### Admission and dropping -/

theorem admitRecord_of_no_tally (r : Record) (none' : (s.stage l).tally.dropped = 0) :
    admitRecord l r s = s.setStage l { s.stage l with fifo := (s.stage l).fifo ++ [r] } := by
  simp [admitRecord, none']

theorem admitRecord_of_tally (r : Record) (some' : (s.stage l).tally.dropped ≠ 0)
    (timed : (s.stage l).tally.first = some first) (timed' : (s.stage l).tally.last = some last) :
    admitRecord l r s = s.setStage l { s.stage l with
      fifo := (s.stage l).fifo ++ [.dropped ((s.stage l).tally.report first last s.reading), r]
      tally := (s.stage l).tally.unreported last } := by
  simp [admitRecord, Nat.pos_of_ne_zero some', formDropped_eq timed timed']

/-- The need of R132, met or not. -/
theorem State.needMet_iff (s : State) (l : LaneNo) (r : Record) :
    s.needMet l ((s.stage l).need r) = true ↔
      let g := s.stage l
      let shared := g.holding + (r.blocks + (if g.tally.dropped = 0 then 0 else 1)) - g.allotment
      shared ≤ g.cap ∧ shared - (g.holding - g.allotment) ≤ s.freePool := by
  have need : (s.stage l).need r = r.blocks + (if (s.stage l).tally.dropped = 0 then 0 else 1) := by
    unfold StagingLane.need
    split <;> split <;> omega
  rw [State.needMet, decide_eq_true_eq, need]
  rfl

theorem takeOffer_refused {o : Offer} (state : (s.lane o.lane).state = .closed ∨ (s.lane o.lane).state = .closing) :
    takeOffer o s = s.bump o.source.noLane := by
  rcases state with state | state <;> simp only [takeOffer, state]

theorem takeOffer_halted {o : Offer} (state : (s.lane o.lane).state = .halted) :
    takeOffer o s = dropRecord o.lane o.record s := by
  simp only [takeOffer, state]

theorem takeOffer_taken {o : Offer} (state : (s.lane o.lane).state = .opened ∨ (s.lane o.lane).state = .starved) :
    takeOffer o s = if s.needMet o.lane ((s.stage o.lane).need o.record) then admitRecord o.lane o.record s
      else dropRecord o.lane o.record s := by
  rcases state with state | state <;> simp only [takeOffer, state]

theorem takeOffer_admitted {o : Offer} (state : (s.lane o.lane).state = .opened ∨ (s.lane o.lane).state = .starved)
    (met : s.needMet o.lane ((s.stage o.lane).need o.record) = true) :
    takeOffer o s = admitRecord o.lane o.record s := by rw [takeOffer_taken state, if_pos met]

theorem takeOffer_dropped {o : Offer} (state : (s.lane o.lane).state = .opened ∨ (s.lane o.lane).state = .starved)
    (unmet : ¬s.needMet o.lane ((s.stage o.lane).need o.record) = true) :
    takeOffer o s = dropRecord o.lane o.record s := by rw [takeOffer_taken state, if_neg unmet]

/-- No page is sought by a lane that is neither OPEN nor CLOSING (R138). -/
theorem seekPage_of_state (open' : (s.lane l).state ≠ .opened) (closing : (s.lane l).state ≠ .closing) :
    seekPage l s = s := by
  simp [seekPage, open', closing]

/-! ### What a lane owes -/

/-- A record dropped adds 1 to what its lane owes (R135). -/
theorem dropRecord_owed (l : LaneNo) (r : Record) (s : State) :
    ((dropRecord l r s).stage l).owed = (s.stage l).owed + 1 := by
  have stage : (dropRecord l r s).stage l = { s.stage l with
      tally := (s.stage l).tally.add r (s.dropTime r), dropTotal := (s.stage l).dropTotal + 1 } :=
    State.setStage_stage_self ..
  rw [stage]
  exact (Nat.add_assoc ..).symm

/-- A record admitted adds 1 as well, whether or not a DROPPED record goes before it (R135). -/
theorem admitRecord_owed (coherent : (s.stage l).tally.Coherent) {r : Record} (plain : r.isDropped = false) :
    ((admitRecord l r s).stage l).owed = (s.stage l).owed + 1 := by
  have one := Record.accounts_of_not_dropped plain
  by_cases none' : (s.stage l).tally.dropped = 0
  · rw [admitRecord_of_no_tally r none', State.setStage_stage_self]
    simp only [StagingLane.owed, List.map_append, List.map_cons, List.map_nil, List.sum_append, List.sum_cons,
      List.sum_nil, one]
    omega
  · obtain ⟨first, last, timed, timed'⟩ := coherent.timed (Nat.pos_of_ne_zero none')
    have whole := (s.stage l).tally.report_dropped_add first last s.reading
    rw [admitRecord_of_tally r none' timed timed', State.setStage_stage_self]
    simp only [StagingLane.owed, List.map_append, List.map_cons, List.map_nil, List.sum_append, List.sum_cons,
      List.sum_nil, Record.accounts_dropped, one]
    omega

theorem dropRecord_lane (l : LaneNo) (r : Record) (s : State) (j : LaneNo) :
    (dropRecord l r s).lane j = s.lane j := rfl

theorem dropRecord_stage_of_ne (r : Record) (s : State) {j : LaneNo} (h : l ≠ j) :
    (dropRecord l r s).stage j = s.stage j := by
  simp [dropRecord, State.setStage_stage_of_ne s _ h]

theorem admitRecord_stage_of_ne (r : Record) (s : State) {j : LaneNo} (h : l ≠ j) :
    (admitRecord l r s).stage j = s.stage j := by
  obtain ⟨g, eq, _⟩ := admitRecord_eq_setStage l r s
  rw [eq, State.setStage_stage_of_ne s _ h]

/-- A lane that takes an offer owes 1 more, and no other lane's part changes (R135). -/
theorem takeOffer_owed {o : Offer} (plain : o.record.isDropped = false) (open' : (s.lane o.lane).state ≠ .closed)
    (closing : (s.lane o.lane).state ≠ .closing) (coherent : (s.stage o.lane).tally.Coherent) :
    ((takeOffer o s).stage o.lane).owed = (s.stage o.lane).owed + 1
      ∧ ∀ l : LaneNo, l ≠ o.lane → (takeOffer o s).stage l = s.stage l := by
  have dropped := And.intro (dropRecord_owed o.lane o.record s)
    fun (l : LaneNo) (h : l ≠ o.lane) => dropRecord_stage_of_ne o.record s h.symm
  have taken (state : (s.lane o.lane).state = .opened ∨ (s.lane o.lane).state = .starved) :
      ((takeOffer o s).stage o.lane).owed = (s.stage o.lane).owed + 1
        ∧ ∀ l : LaneNo, l ≠ o.lane → (takeOffer o s).stage l = s.stage l := by
    rw [takeOffer_taken state]
    split
    · exact ⟨admitRecord_owed coherent plain, fun l h => admitRecord_stage_of_ne o.record s h.symm⟩
    · exact dropped
  cases state : (s.lane o.lane).state with
  | closed => exact absurd state open'
  | closing => exact absurd state closing
  | opened => exact taken (.inl state)
  | starved => exact taken (.inr state)
  | halted => rw [takeOffer_halted state]; exact dropped

end

/-! ### OFFER_RECORD -/

section
variable {s : State} {i : Nat} {o : Offer}

theorem execOfferRecord_ready (offered : s.offers[i]? = some o) (ready : s.offerReady i o = true) :
    exec (.offerRecord i) s = .next (seekPage o.lane (takeOffer o { s with offers := s.offers.eraseIdx i })) := by
  simp only [exec, execOfferRecord, offered, ready, if_true]

theorem execOfferRecord_not_ready (waits : ∀ o : Offer, s.offers[i]? = some o → s.offerReady i o = false) :
    exec (.offerRecord i) s = .next s := by
  simp only [exec, execOfferRecord]
  split
  · rename_i o offered
    rw [waits o offered]
    rfl
  · rfl

end

/-- Settles O35: an offer taken by the state of its lane, what the lane owes, the order of offers as the negation of
mustPrecede, and the blocks of a record and of the pool. -/
theorem offerIsTakenInTurnAndAccountedFor : Obligations.OfferIsTakenInTurnAndAccountedFor := by
  refine ⟨fun i s => ⟨execOfferRecord_not_ready, fun o offered ready => ?_⟩, ?_, fun i o s => s.offerReady_iff i o,
    fun r => ⟨rfl, r.isArrival_iff, r.isDropped_iff, r.ownTime_iff⟩, fun s => rfl⟩
  · let u : State := { s with offers := s.offers.eraseIdx i }
    have taken {t : State} (eq : takeOffer o u = t) : exec (.offerRecord i) s = .next (seekPage o.lane t) :=
      eq ▸ execOfferRecord_ready offered ready
    have met := u.needMet_iff o.lane o.record
    refine ⟨fun state => taken (takeOffer_refused state), fun state => ?_,
      fun state unmet => taken (takeOffer_dropped state (mt met.mp unmet)),
      fun state enough none' => taken ((takeOffer_admitted (s := u) state (met.mpr enough)).trans
        (admitRecord_of_no_tally (s := u) o.record none')),
      fun first last state enough some' timed timed' =>
        taken ((takeOffer_admitted (s := u) state (met.mpr enough)).trans
          (admitRecord_of_tally (s := u) o.record some' timed timed'))⟩
    have lane : u.lane o.lane = s.lane o.lane := rfl
    have stays (r : Record) : seekPage o.lane (dropRecord o.lane r u) = dropRecord o.lane r u :=
      seekPage_of_state (by rw [dropRecord_lane, lane, state]; simp) (by rw [dropRecord_lane, lane, state]; simp)
    exact (taken (takeOffer_halted state)).trans (congrArg _ (stays o.record))
  · intro i o s offered ready plain open' closing coherent
    have sought := seekPage_noClose (takeOffer o { s with offers := s.offers.eraseIdx i }) o.lane
    obtain ⟨owed, others⟩ := takeOffer_owed (s := { s with offers := s.offers.eraseIdx i }) plain open' closing coherent
    exact ⟨_, execOfferRecord_ready offered ready, by rw [sought.stage, owed]; rfl,
      fun l h => by rw [sought.stage, others l h]; rfl⟩

end Sys2Proof.Machine
end

section
/-! SUPPORT. PARTITION_SET, by value: its refusals, the partition that it makes, and its result (R130). -/

namespace Sys2Proof.Machine

/-- The total of the allotments that a slot gives (R130). -/
theorem sum_givenAllotment (slot : List Byte) : ((List.finRange 4).map (givenAllotment slot)).sum =
    givenAllotment slot 0 + givenAllotment slot 1 + givenAllotment slot 2 + givenAllotment slot 3 := by
  show givenAllotment slot 0 + (givenAllotment slot 1 + (givenAllotment slot 2 + (givenAllotment slot 3 + 0))) = _
  omega

/-- The Staging Buffer with every lane's allotment and cap set (R130). -/
def State.partitioned (s : State) (a c : LaneNo → Nat) : State :=
  (List.finRange 4).foldl (fun t l => setPartition l (a l) (c l) t) s

/-- The bytes of PARTITION_SET's result (R173). -/
theorem resultOf_partitionSet (a b c d pool : Nat) :
    resultOf [(48, leBytes 2 a), (50, leBytes 2 b), (52, leBytes 2 c), (54, leBytes 2 d), (56, leBytes 2 pool)] =
      leBytes 2 a ++ leBytes 2 b ++ leBytes 2 c ++ leBytes 2 d ++ leBytes 2 pool ++ zeros 6 := by
  rw [resultOf_eq _ (by simp [Ordered])]
  simp [filled]

section
variable {s : State} {slot : List Byte}

theorem carryPartitionSet_busy (busy : ∃ l : LaneNo, (s.lane l).state ≠ .closed) :
    carryPartitionSet slot s = s.answerWith .busy [] :=
  if_pos (by simpa using busy)

variable (free : ¬∃ l : LaneNo, (s.lane l).state ≠ .closed)
include free

theorem carryPartitionSet_refused (refused : (∃ l : LaneNo, givenAllotment slot l < Config.smallestAllotment)
      ∨ Config.stagingBlocks < ((List.finRange 4).map (givenAllotment slot)).sum) :
    carryPartitionSet slot s = s.answerWith .badParam [] :=
  (if_neg (by simpa using free)).trans (if_pos (by simpa using refused))

theorem carryPartitionSet_taken (taken : ¬((∃ l : LaneNo, givenAllotment slot l < Config.smallestAllotment)
      ∨ Config.stagingBlocks < ((List.finRange 4).map (givenAllotment slot)).sum)) :
    let pool := Config.stagingBlocks - ((List.finRange 4).map (givenAllotment slot)).sum
    let cap (l : LaneNo) : Nat := min pool (givenCap slot l)
    carryPartitionSet slot s = (s.partitioned (givenAllotment slot) cap).answerWith
      (if ∀ l : LaneNo, cap l = givenCap slot l then .ok else .adjusted)
      [(48, leBytes 2 (cap 0)), (50, leBytes 2 (cap 1)), (52, leBytes 2 (cap 2)), (54, leBytes 2 (cap 3)),
       (56, leBytes 2 pool)] := by
  intro pool cap
  have whole : ((List.finRange 4).all fun l => decide (cap l = givenCap slot l)) = true
      ↔ ∀ l : LaneNo, cap l = givenCap slot l := by simp
  refine (if_neg (by simpa using free)).trans ((if_neg (by simpa using taken)).trans ?_)
  exact congrArg (fun o => (s.partitioned (givenAllotment slot) cap).answerWith o _) (if_congr whole rfl rfl)

end

/-- Settles O34: BUSY, refused, and the partition made, while the engine waits. -/
theorem partitionSetDividesTheBuffer : Obligations.PartitionSetDividesTheBuffer := by
  intro slot s h allotment given total pool cap busy refused
  have sum : ((List.finRange 4).map (givenAllotment slot)).sum = total := sum_givenAllotment slot
  have carried : exec .partitionSet s = .next (carryPartitionSet slot s.begun) :=
    congrArg Host.Outcome.next (h.carryOut carryPartitionSet)
  rw [carried]
  refine ⟨fun occupied => ?_, fun free ranges => ?_, fun free ranges => ?_⟩
  · rw [carryPartitionSet_busy (s := s.begun) occupied, s.begun_answerWith _ _ h.busy, resultOf_nil]
  · rw [carryPartitionSet_refused (s := s.begun) free (by rw [sum]; exact ranges), s.begun_answerWith _ _ h.busy,
      resultOf_nil]
  · have taken := carryPartitionSet_taken (s := s.begun) (slot := slot) free (by rw [sum]; exact ranges)
    rw [sum] at taken
    refine ⟨(s.partitioned allotment cap).staging, fun l => stage_setPartitions (s := s) allotment cap l, ?_⟩
    rw [taken, ← resultOf_partitionSet]
    exact congrArg Host.Outcome.next (State.answerWith_eq (s.begun.partitioned allotment cap) _ _ h.busy rfl)

end Sys2Proof.Machine
end

section
/-! SUPPORT. The Lane Writers' pages, by value: a page sought, taken, written and closed, and the timers of a lane
(R138 to R143). -/

namespace Sys2Proof.Machine

/-! ### Outstanding reads -/

section
variable {s : State} {l : LaneNo}

theorem State.ownerReadOut_eq_false_iff (s : State) (l : LaneNo) :
    s.ownerReadOut l = false ↔ ∀ r ∈ s.bus.reads, r.purpose ≠ .ownerWord l := by simp [State.ownerReadOut]

theorem State.readLate_eq_false_iff (s : State) (r : ReadOp) :
    s.readLate r = false ↔ (s.count - r.issued).toNat ≤ 4000000 := by
  rw [State.readLate, decide_eq_false_iff_not, Nat.not_lt]
  rfl

theorem State.readLate_iff (s : State) (r : ReadOp) : s.readLate r = true ↔ 4000000 < (s.count - r.issued).toNat := by
  rw [State.readLate, decide_eq_true_eq]
  rfl

/-- A read issued on a NORMAL bus is outstanding, under the next number (R161, log 5). -/
theorem State.issueRead_eq (running : s.bus.faulted = false) (p : ReadPurpose) (a : Address) (n : Nat) :
    s.issueRead p a n = { s with bus := { s.bus with
      reads := s.bus.reads ++ [{ tag := s.bus.nextTag, purpose := p, address := a, length := n, issued := s.count
                                 wanted := true }]
      nextTag := s.bus.nextTag + 1, log := s.bus.log ++ [.read s.bus.nextTag a n] } } :=
  if_neg (by simp [running])

/-! ### A page sought and taken -/

theorem readOwner_eq {address : Address} (page : (s.lane l).pages[(s.lane l).nextPage]? = some address) :
    readOwner l s = (s.setLane l { s.lane l with rereadAt := none }).issueRead (.ownerWord l) address 4 := by
  simp only [readOwner, Lane.nextAddress, page]

theorem seekPage_eq (l : LaneNo) (s : State) :
    seekPage l s =
      if ((s.lane l).state = .opened ∨ (s.lane l).state = .closing) ∧ (s.stage l).fifo ≠ [] ∧ (s.lane l).current = none
          ∧ ∀ r ∈ s.bus.reads, r.purpose ≠ .ownerWord l
      then readOwner l s else s := by
  simp only [seekPage, State.ownerReadOut_eq_false_iff]

/-- The completion of a read that its lane no longer wants lets it seek a page anew (R145). -/
theorem ownerReadDone_unwanted {r : ReadOp} (unwanted : r.wanted = false) (word : BitVec 32) :
    ownerReadDone l r word s = seekPage l ((s.dropRead r.tag).noteAge r) := by
  simp [ownerReadDone, unwanted]

theorem ownerReadDone_wanted {r : ReadOp} (wanted : r.wanted = true) (word : BitVec 32) :
    ownerReadDone l r word s = ownerWordRead l r word ((s.dropRead r.tag).noteAge r) := by
  simp [ownerReadDone, wanted]

theorem ownerWordRead_free (l : LaneNo) (r : ReadOp) (s : State) : ownerWordRead l r 1 s = takePage l r.address s := rfl

section
variable {r : ReadOp} {word : BitVec 32} (taken : word ≠ 1)
include taken

theorem ownerWordRead_opened (state : (s.lane l).state = .opened) :
    ownerWordRead l r word s =
      (s.setLane l { s.lane l with state := .starved, rereadAt := some (r.issued + 8000) }).bump
        (.lane l .starvations) := by
  rw [ownerWordRead, if_neg taken]
  simp only [state]
  rfl

theorem ownerWordRead_starved (state : (s.lane l).state = .starved) :
    ownerWordRead l r word s = s.setLane l { s.lane l with rereadAt := some (r.issued + 8000) } := by
  rw [ownerWordRead, if_neg taken]
  simp only [state]
  rfl

theorem ownerWordRead_closing (state : (s.lane l).state = .closing) :
    ownerWordRead l r word s = closeWithLoss l (s.bump (.lane l .starvations)) := by
  rw [ownerWordRead, if_neg taken]
  simp only [state]

end

theorem execOwnerWordReadDone_inTime {tag : Nat} {r : ReadOp} (out : s.readOp tag = some r)
    (purpose : r.purpose = .ownerWord l) (inTime : (s.count - r.issued).toNat ≤ 4000000) (word : BitVec 32) :
    exec (.ownerWordReadDone tag word) s = .next (ownerReadDone l r word s) := by
  simp [exec, execOwnerWordReadDone, out, purpose, (s.readLate_eq_false_iff r).mpr inTime]

/-- A late completion, and one of no owner-word read, is nothing (R161, log 2). -/
theorem execOwnerWordReadDone_ignored {tag : Nat} (ignored : ∀ r : ReadOp, s.readOp tag = some r →
    4000000 < (s.count - r.issued).toNat ∨ ∀ l : LaneNo, r.purpose ≠ .ownerWord l) (word : BitVec 32) :
    exec (.ownerWordReadDone tag word) s = .next s := by
  refine congrArg Host.Outcome.next ?_
  split
  · rename_i r out
    split
    · rename_i j purpose
      have late := (ignored r out).resolve_right fun other => other j purpose
      rw [if_pos ((s.readLate_iff r).mpr late)]
    · rfl
    · rfl
    · rfl
  · rfl

end

/-- Settles O36: a page sought, an owner word by its value and the state of its lane, and what outstanding reads are. -/
theorem pageIsTakenByItsOwnerWord : Obligations.PageIsTakenByItsOwnerWord := by
  refine ⟨fun l address s page running => ⟨fun seeks => ?_, fun idle => ?_⟩, ?_,
    fun tag word s ignored => execOwnerWordReadDone_ignored ignored word, fun _ _ _ _ => ⟨rfl, rfl, rfl, rfl⟩⟩
  · rw [seekPage_eq, if_pos seeks, readOwner_eq page]
    exact State.issueRead_eq (s := s.setLane l { s.lane l with rereadAt := none }) running ..
  · rw [seekPage_eq, if_neg idle]
  · intro tag word r l s out purpose inTime
    let u := (s.dropRead r.tag).noteAge r
    have done := execOwnerWordReadDone_inTime out purpose inTime word
    have read {t : State} (wanted : r.wanted = true) (eq : ownerWordRead l r word u = t) :
        exec (.ownerWordReadDone tag word) s = .next t :=
      done.trans (congrArg Host.Outcome.next ((ownerReadDone_wanted wanted word).trans eq))
    exact ⟨fun unwanted => done.trans (congrArg Host.Outcome.next (ownerReadDone_unwanted unwanted word)),
      fun wanted free => read wanted (free ▸ ownerWordRead_free l r u),
      fun wanted taken state => read wanted (ownerWordRead_opened (s := u) taken state),
      fun wanted taken state => read wanted (ownerWordRead_starved (s := u) taken state),
      fun wanted taken state => read wanted (ownerWordRead_closing (s := u) taken state)⟩

/-! ### The head record written -/

section
variable {s : State} {l : LaneNo} {p : CurrentPage} {r : Record} {rest : List Record}

theorem writtenCounter_eq (l : LaneNo) (r : Record) :
    writtenCounter l r = .lane l (if r.isDropped then .droppedWritten else .written) := by
  unfold writtenCounter
  split <;> rfl

variable (page : (s.lane l).current = some p) (head : (s.stage l).fifo = r :: rest)
include page head

theorem writeHead_eq : writeHead l s =
    (((s.writeAt (p.address + BitVec.ofNat 64 p.used) (r.encode (s.lane l).serial)).setLane l
      ((s.lane l).afterWrite p r.length s.count)).setStage l { s.stage l with fifo := rest }).bump
        (.lane l (if r.isDropped then .droppedWritten else .written)) := by
  rw [← writtenCounter_eq]
  simp only [writeHead, page, head]

theorem writeNext_fits (fits : p.used + r.length ≤ 2 ^ (s.lane l).exponent) : writeNext l s = writeHead l s := by
  simp only [writeNext, page, head, Lane.pageSize, fits, if_true]

theorem writeNext_full (full : 2 ^ (s.lane l).exponent < p.used + r.length) :
    writeNext l s = seekPage l (closePage l .full s) := by
  simp only [writeNext, page, head, Lane.pageSize, Nat.not_le.mpr full, if_false]

end

/-- Without a page or a record nothing is written. -/
theorem writeNext_idle {s : State} {l : LaneNo} (idle : (s.lane l).current = none ∨ (s.stage l).fifo = []) :
    writeNext l s = s := by
  unfold writeNext
  split
  · rename_i page head
    simp [page, head] at idle
  · rfl
  · rfl

/-- Settles O37: the lane idle, its head record written when it fits, and its page closed when it does not. -/
theorem headRecordIsWrittenOrClosesThePage : Obligations.HeadRecordIsWrittenOrClosesThePage := by
  intro l s w g writes
  refine ⟨fun idle => ?_, fun p r rest writing page head => ?_⟩
  · refine congrArg Host.Outcome.next ?_
    split
    · rename_i writing
      exact writeNext_idle (idle.resolve_left (not_not.mpr writing))
    · rfl
  · have written := writeHead_eq page head
    have carried : exec (.writeRecord l) s = .next (writeNext l s) := congrArg Host.Outcome.next (if_pos writing)
    refine ⟨fun fits => ?_, fun full => ?_, written⟩
    · rw [carried, writeNext_fits page head fits, written]
      rfl
    · rw [carried, writeNext_full page head full]

/-! ### A page closed -/

theorem State.writeAt_setLane (s : State) (a : Address) (bytes : List Byte) (l : LaneNo) (w : Lane) :
    (s.setLane l w).writeAt a bytes = (s.writeAt a bytes).setLane l w := by
  unfold State.writeAt State.issueWrite
  rw [State.setLane_bus, apply_ite fun t : State => t.setLane l w]
  rfl

theorem State.writeArea_setLane (s : State) (o : Nat) (bytes : List Byte) (l : LaneNo) (w : Lane) :
    (s.setLane l w).writeArea o bytes = (s.writeArea o bytes).setLane l w := by
  unfold State.writeArea
  rw [State.setLane_bus, State.writeAt_setLane, apply_ite fun t : State => t.setLane l w]

/-- Bytes 4 to 31 of a page header, in a row (R170). -/
theorem pageHeader_eq (l : LaneNo) (w : Lane) (p : CurrentPage) (reason : CloseReason) (now : DatedTime) :
    pageHeader l w p reason now =
      leBytes 4 w.pageSerial.toNat ++ leBytes 4 p.firstSerial.toNat ++ leBytes 2 p.records ++ leBytes 1 reason.code
        ++ leBytes 1 l ++ leBytes 4 p.used ++ leBytes 2 now.epoch.toNat ++ zeros 2 ++ leBytes 4 now.time.sec.toNat
        ++ leBytes 4 now.time.ns := by
  rw [pageHeader, layout_eq_filled _ _ (by simp [Ordered])]
  simp [filled]

section
variable {s : State} {l : LaneNo}

/-- What a page close writes and counts before the lane itself changes (R142). -/
def State.closeWrites (s : State) (l : LaneNo) (reason : CloseReason) (p : CurrentPage) : State :=
  (((s.writeAt (p.address + 4) (pageHeader l (s.lane l) p reason s.reading)).writeAt p.address (leBytes 4 2)).bump
    (.lane l reason.counter)).writeArea (0x484 + 16 * l) (leBytes 4 ((s.lane l).closedPages + 1).toNat)

theorem closePage_eq {p : CurrentPage} (page : (s.lane l).current = some p) (reason : CloseReason) :
    closePage l reason s = notifyClose l ((s.closeWrites l reason p).setLane l (s.lane l).afterClose) := by
  simp only [closePage, page, State.closeWrites, ← State.writeArea_setLane, ← State.bump_setLane]

theorem closePage_of_none (none' : (s.lane l).current = none) (reason : CloseReason) : closePage l reason s = s := by
  simp only [closePage, none']

theorem notifyClose_announced (due : (s.lane l).batch ≤ (s.lane l).pendingCloses + 1 ∨ (s.lane l).holdoff = 0) :
    notifyClose l s = (s.setLane l { s.lane l with pendingCloses := 0, holdoffAt := none }).setCause (.lane l) :=
  if_pos due

theorem notifyClose_later (early : ¬((s.lane l).batch ≤ (s.lane l).pendingCloses + 1 ∨ (s.lane l).holdoff = 0)) :
    notifyClose l s = s.setLane l { s.lane l with
      pendingCloses := (s.lane l).pendingCloses + 1, holdoffAt := some (s.count + microseconds (s.lane l).holdoff) } :=
  if_neg early

end

/-- Settles O38: the writes of a close, then its notification at once or after the holdoff. -/
theorem pageCloseWritesHeaderAndNotifies : Obligations.PageCloseWritesHeaderAndNotifies := by
  refine ⟨fun l reason p s page => ?_, fun l reason s none' => closePage_of_none none' reason⟩
  intro w b code counter header after closed announces later
  have codes : reason.code = code := by cases reason <;> rfl
  have counters : reason.counter = counter := by cases reason <;> rfl
  have writes : s.closeWrites l reason p = closed := by
    rw [State.closeWrites, pageHeader_eq, codes, counters]
    rfl
  rw [closePage_eq page, writes]
  have lane : (closed.setLane l w.afterClose).lane l = w.afterClose := State.setLane_lane_self ..
  refine ⟨fun due => ?_, fun early => ?_⟩
  · rw [notifyClose_announced (by rw [lane]; exact due), lane, State.setLane_setLane]
    rfl
  · have count : closed.count = s.count := by simp [closed]
    rw [notifyClose_later (by rw [lane]; exact early), lane, State.setLane_setLane, State.setLane_count, count]
    rfl

/-! ### Timers -/

section
variable {s : State} {l : LaneNo}

theorem timerDue_iff (now : Count) (timer : Option Count) :
    timerDue now timer = true ↔ ∃ at' : Count, timer = some at' ∧ (now - at').toNat < 2 ^ 63 := by
  cases timer with
  | none => simp [timerDue]
  | some at' => simp [timerDue, reached]

theorem reread_idle (idle : (s.lane l).state ≠ .starved ∨ ∃ r ∈ s.bus.reads, r.purpose = .ownerWord l) :
    reread l s = s := by
  refine if_neg ?_
  rw [State.ownerReadOut_eq_false_iff]
  rintro ⟨state, none'⟩
  rcases idle with other | ⟨r, mem, out⟩
  · exact other state
  · exact none' r mem out

end

/-- Settles O39: each of the three timers, due or not. -/
theorem laneTimersExpire : Obligations.LaneTimersExpire := by
  intro l s w due quiet
  have dueIff (timer : Option Count) : timerDue s.count timer = true ↔ due timer := timerDue_iff s.count timer
  refine ⟨fun ends => ?_, fun runs => ?_, fun ends => ?_, fun runs => ?_, fun address ends state none' page => ?_,
    fun idle => ?_⟩ <;> refine congrArg Host.Outcome.next ?_
  · exact if_pos ((dueIff _).mpr ends)
  · exact if_neg (mt (dueIff _).mp runs)
  · refine (if_pos ((dueIff _).mpr ends)).trans ?_
    unfold holdoffEnd
    by_cases none' : w.pendingCloses = 0
    · rw [if_pos none']
      exact if_neg (by simp [w] at none' ⊢; exact none')
    · rw [if_neg none']
      exact if_pos (Nat.pos_of_ne_zero none')
  · exact if_neg (mt (dueIff _).mp runs)
  · refine (if_pos ((dueIff _).mpr ends)).trans ((if_pos ⟨state, ?_⟩).trans (readOwner_eq page))
    exact (s.ownerReadOut_eq_false_iff l).mpr none'
  · split
    · rename_i ends
      exact reread_idle (idle.resolve_left (not_not.mpr ((dueIff _).mp ends)))
    · rfl

end Sys2Proof.Machine
end

section
/-! SUPPORT. LANE_OPEN and the completion of its page list, and a read failure, by value (R137, R146, R161, R162). -/

namespace Sys2Proof.Machine

/-- An answer in a state with the engine of another, in which it waits and nothing is handed. -/
theorem State.answerWith_of_engine {s t : State} (engine : t.engine = s.engine) (busy : s.engine.state = .busy)
    (handed : s.engine.handed = none) (o : ReqOutcome) (fs : List (Nat × List Byte)) :
    t.answerWith o fs = t.returns o (resultOf fs) :=
  State.answerWith_eq t o fs (engine ▸ busy) (engine ▸ handed)

/-! ### LANE_OPEN -/

theorem laneNo?_none {n : Nat} (h : 4 ≤ n) : laneNo? n = none := dif_neg (by omega)

/-- A parameter of LANE_OPEN is out of its range (R137). -/
def openRefused (slot : List Byte) : Prop :=
  slotField slot 10 2 < 2 ∨ 1024 < slotField slot 10 2 ∨ slotField slot 9 1 < 12 ∨ 20 < slotField slot 9 1
    ∨ slotField slot 24 8 % 8 ≠ 0

theorem openParams_of_refused {slot : List Byte} (h : openRefused slot) : openParams slot = none := by
  refine if_neg ?_
  unfold openRefused at h
  omega

/-- The opening that a slot in range asks for (R137, R173). -/
def slotOpening (slot : List Byte) : Opening :=
  { count := slotField slot 10 2, exponent := slotField slot 9 1, linger := slotField slot 12 2
    holdoff := slotField slot 14 2, batch := slotField slot 16 2 }

theorem openParams_of_valid {slot : List Byte} (h : ¬openRefused slot) :
    openParams slot = some { opening := slotOpening slot, list := BitVec.ofNat 64 (slotField slot 24 8) } := by
  refine if_pos ?_
  unfold openRefused at h
  omega

section
variable {s : State} {slot : List Byte} {l : LaneNo}

theorem carryLaneOpen_noLane (high : 4 ≤ slotField slot 8 1) : carryLaneOpen slot s = s.answerWith .badParam [] := by
  simp only [carryLaneOpen, laneNo?_none high]

variable (named : slotField slot 8 1 = l)
include named

theorem carryLaneOpen_busy (state : (s.lane l).state ≠ .closed) : carryLaneOpen slot s = s.answerWith .busy [] := by
  simp only [carryLaneOpen, named, laneNo?_val, if_pos state]

theorem carryLaneOpen_refused (state : (s.lane l).state = .closed) (refused : openRefused slot) :
    carryLaneOpen slot s = s.answerWith .badParam [] := by
  simp only [carryLaneOpen, named, laneNo?_val, if_neg (not_not.mpr state), openParams_of_refused refused]

theorem carryLaneOpen_taken (state : (s.lane l).state = .closed) (taken : ¬openRefused slot)
    (running : s.bus.faulted = false) :
    carryLaneOpen slot s = (s.setLane l { s.lane l with opening := some (slotOpening slot) }).issueRead (.pageList l)
      (BitVec.ofNat 64 (slotField slot 24 8)) (8 * slotField slot 10 2) := by
  simp only [carryLaneOpen, named, laneNo?_val, if_neg (not_not.mpr state), openParams_of_valid taken, running,
    Bool.false_eq_true, if_false]
  rfl

end

/-! ### The page list -/

/-- The bytes of LANE_OPEN's result (R173). -/
theorem resultOf_laneOpen (linger holdoff batch : Nat) :
    resultOf [(48, leBytes 2 linger), (50, leBytes 2 holdoff), (52, leBytes 2 batch)] =
      leBytes 2 linger ++ leBytes 2 holdoff ++ leBytes 2 batch ++ zeros 10 := by
  rw [resultOf_eq _ (by simp [Ordered])]
  simp [filled]

section
variable {s : State} {l : LaneNo} {o : Opening} {pages : List Address}

theorem pageListRead_refused (skew : ∃ a ∈ pages, a.toNat % 4096 ≠ 0) :
    pageListRead l o pages s = (s.setLane l { s.lane l with opening := none }).answerWith .badParam [] :=
  if_pos (by simpa using skew)

theorem pageListRead_opens (aligned : ∀ a ∈ pages, a.toNat % 4096 = 0) :
    let u := (s.lane l).openedWith o pages
    pageListRead l o pages s =
      ((s.setLane l u).setStage l { s.stage l with tally := .empty, dropTotal := 0 }).answerWith
        (if u.linger = o.linger ∧ u.batch = o.batch then .ok else .adjusted)
        [(48, leBytes 2 u.linger), (50, leBytes 2 u.holdoff), (52, leBytes 2 u.batch)] :=
  if_neg (by simpa using aligned)

variable {tag : Nat} {bytes : List Byte} {r : ReadOp}

theorem execPageListReadDone_inTime (out : s.readOp tag = some r) (purpose : r.purpose = .pageList l)
    (opening : (s.lane l).opening = some o) (inTime : (s.count - r.issued).toNat ≤ 4000000)
    (whole : bytes.length = 8 * o.count) :
    exec (.pageListReadDone tag bytes) s =
      .next (pageListRead l o (pageList o.count bytes) ((s.dropRead tag).noteAge r)) := by
  simp [exec, execPageListReadDone, out, purpose, opening, (s.readLate_eq_false_iff r).mpr inTime, whole]

/-- A late completion, and one of no page list that a lane waits for, is nothing (R161, log 2). -/
theorem execPageListReadDone_ignored (ignored : ∀ r : ReadOp, s.readOp tag = some r →
    4000000 < (s.count - r.issued).toNat ∨ ∀ (l : LaneNo) (o : Opening), r.purpose = .pageList l →
      (s.lane l).opening = some o → bytes.length ≠ 8 * o.count) :
    exec (.pageListReadDone tag bytes) s = .next s := by
  refine congrArg Host.Outcome.next ?_
  split
  · rename_i r out
    split
    · rename_i j purpose
      split
      · rename_i o opening
        refine if_neg ?_
        rw [State.readLate_eq_false_iff]
        rintro ⟨inTime, whole⟩
        rcases ignored r out with late | other
        · omega
        · exact other j o purpose opening whole
      · rfl
    · rfl
    · rfl
    · rfl
  · rfl

end

/-- Settles O40: the checks of LANE_OPEN in their order, then the page list, misaligned or not. -/
theorem laneOpensWithItsPageList : Obligations.LaneOpensWithItsPageList := by
  refine ⟨fun slot s => ?_, fun tag bytes s => execPageListReadDone_ignored⟩
  intro number refused
  have carried (h : s.Holds 0x30 slot) : exec .laneOpen s = .next (carryLaneOpen slot s.begun) :=
    congrArg Host.Outcome.next (h.carryOut carryLaneOpen)
  have answered (h : s.Holds 0x30 slot) {o : ReqOutcome} (eq : carryLaneOpen slot s.begun = s.begun.answerWith o []) :
      exec .laneOpen s = .next (s.returns o (zeros 16)) :=
    (carried h).trans (congrArg Host.Outcome.next (eq.trans (s.begun_answerWith o [] h.busy)))
  refine ⟨fun h high => answered h (carryLaneOpen_noLane high), fun l => ?_⟩
  intro w
  refine ⟨fun h named state => answered h (carryLaneOpen_busy (s := s.begun) named state),
    fun h named state bad => answered h (carryLaneOpen_refused (s := s.begun) named state bad),
    fun h named state good running => ?_, ?_⟩
  · exact (carried h).trans (congrArg Host.Outcome.next (carryLaneOpen_taken (s := s.begun) named state good running))
  · intro tag r o bytes out purpose opening inTime whole busy handed u pages linger batch opened stage
    have list : pageList o.count bytes = pages := pageList_eq o.count bytes
    have done := execPageListReadDone_inTime out purpose opening inTime whole
    rw [list] at done
    refine ⟨fun skew => ?_, fun aligned => ?_⟩
    · rw [done, pageListRead_refused skew]
      exact congrArg Host.Outcome.next (State.answerWith_of_engine (t := u.setLane l _) rfl busy handed ..)
    · rw [done, pageListRead_opens aligned, ← resultOf_laneOpen]
      exact congrArg Host.Outcome.next
        (State.answerWith_of_engine (t := (u.setLane l opened).setStage l stage) rfl busy handed ..)

/-! ### A read failure -/

/-- A lane at a read failure, by its state (R146). -/
theorem Lane.halt_eq (w : Lane) :
    w.halt = if w.state = .closed ∨ w.state = .halted then { w with opening := none }
      else { w with state := .halted, lingerAt := none, holdoffAt := none, rereadAt := none, pendingCloses := 0
                    opening := none } := by
  unfold Lane.halt
  cases state : w.state <;> simp

/-- The lanes at a read failure. -/
def State.haltedLanes (s : State) : Vector Lane 4 :=
  #v[(s.lane 0).halt, (s.lane 1).halt, (s.lane 2).halt, (s.lane 3).halt]

theorem State.haltedLanes_get (s : State) (l : LaneNo) : s.haltedLanes[l] = (s.lane l).halt := by
  fin_cases l <;> rfl

section
variable {s : State} {tag : Nat} {r : ReadOp}

theorem failRead_faulted (faulted : s.bus.faulted = true) : failRead r s = s.dropRead r.tag := if_pos faulted

theorem failRead_normal (running : s.bus.faulted = false) : failRead r s = enterFaulted r s :=
  if_neg (by simp [running])

theorem execReadFailure_outstanding (out : s.readOp tag = some r) :
    exec (.readFailure tag) s = .next (if 4000000 < (s.count - r.issued).toNat then s else failRead r s) := by
  simp only [exec, execReadFailure, out, State.readLate_iff]

theorem execReadLimitExpiry_outstanding (out : s.readOp tag = some r) :
    exec (.readLimitExpiry tag) s = .next (if 4000000 ≤ (s.count - r.issued).toNat then failRead r s else s) := by
  simp only [exec, execReadLimitExpiry, out]
  rfl

end

/-- Settles O47: a failure reported and one by the limit, on a NORMAL and on a FAULTED bus, and neither. -/
theorem readFailureFaultsTheBus : Obligations.ReadFailureFaultsTheBus := by
  refine ⟨fun tag r s out => ?_, fun tag s none' => ?_⟩
  · intro age e halted faulted
    have reported := execReadFailure_outstanding out
    have expired := execReadLimitExpiry_outstanding out
    have fails (running : s.bus.faulted = false) : faulted (.next (failRead r s)) :=
      ⟨s.haltedLanes, fun l => (s.haltedLanes_get l).trans (Lane.halt_eq _),
        congrArg Host.Outcome.next (failRead_normal running)⟩
    refine ⟨fun running inTime => ?_, fun running late => ?_, fun stopped inTime => ?_, fun stopped late => ?_,
      fun late => ?_, fun early => ?_⟩
    · rw [reported, if_neg (Nat.not_lt.mpr inTime)]
      exact fails running
    · rw [expired, if_pos late]
      exact fails running
    · rw [reported, if_neg (Nat.not_lt.mpr inTime), failRead_faulted stopped]
    · rw [expired, if_pos late, failRead_faulted stopped]
    · rw [reported, if_pos late]
    · rw [expired, if_neg (Nat.not_le.mpr early)]
  · simp only [exec, execReadFailure, execReadLimitExpiry, none', and_self]

end Sys2Proof.Machine
end

section
/-! SUPPORT. LANE_CLOSE and the end of a drain, by value (R134, R144, R145). -/

namespace Sys2Proof.Machine

/-! ### The end of a close -/

/-- The bytes of LANE_CLOSE's result (R173). -/
theorem resultOf_laneClose (w : Lane) (g : StagingLane) (lost : Nat) :
    resultOf (closeResult w g lost) = leBytes 2 w.closeWritten ++ leBytes 2 lost ++ leBytes 4 w.closedPages.toNat
      ++ leBytes 4 w.serial.toNat ++ leBytes 4 g.dropTotal.toNat := by
  rw [closeResult, resultOf_eq _ (by simp [Ordered])]
  simp [filled]

/-- The state at the end of a close, without its answer: the page closed with FLUSH, pending closes announced, the lane
CLOSED (R144). -/
def State.closedOff (s : State) (l : LaneNo) : State :=
  (announceRest l (closePage l .flush s)).setLane l { (announceRest l (closePage l .flush s)).lane l with
    state := .closed, pendingCloses := 0, holdoffAt := none, lingerAt := none }

section
variable {s : State} {l : LaneNo}

theorem State.closedOff_engine (s : State) (l : LaneNo) : (s.closedOff l).engine = s.engine :=
  (((State.LaneOnly.refl.closePage l .flush).announceRest l).setLane l _).engine

theorem endClose_eq (busy : s.engine.state = .busy) (handed : s.engine.handed = none) (o : ReqOutcome) (lost : Nat) :
    endClose l o lost s = (s.closedOff l).returns o
      (leBytes 2 ((s.closedOff l).lane l).closeWritten ++ leBytes 2 lost
        ++ leBytes 4 ((s.closedOff l).lane l).closedPages.toNat ++ leBytes 4 ((s.closedOff l).lane l).serial.toNat
        ++ leBytes 4 ((s.closedOff l).stage l).dropTotal.toNat) := by
  rw [← resultOf_laneClose]
  exact State.answerWith_of_engine (s.closedOff_engine l) busy handed ..

/-! ### A close with loss -/

/-- The records lost are those other than DROPPED (R145, R147). -/
theorem lossCount_eq (fifo : List Record) : lossCount fifo = (fifo.filter fun r => r.isDropped = false).length := by
  rw [lossCount, List.countP_eq_length_filter]
  simp

/-- A lane with its FIFO and tally discarded and its losses counted, its owner-word read no longer wanted (R145). -/
def State.discarded (s : State) (l : LaneNo) : State :=
  let g := s.stage l
  let lost := (g.fifo.filter fun r => r.isDropped = false).length
  ((s.setStage l { g with fifo := [], tally := .empty, dropTotal := g.dropTotal + BitVec.ofNat 32 lost }).bumpBy
    (.lane l .closeDiscards) lost).disownReads fun p => p = .ownerWord l

theorem closeWithLoss_eq (l : LaneNo) (s : State) :
    closeWithLoss l s = endClose l .loss ((s.stage l).fifo.filter fun r => r.isDropped = false).length
      ((s.discarded l).setLane l { s.lane l with rereadAt := none }) := by
  rw [closeWithLoss, lossCount_eq]
  rfl

/-! ### LANE_CLOSE -/

variable {slot : List Byte}

theorem carryLaneClose_refused (refused : 4 ≤ slotField slot 8 1 ∨ 1 < slotField slot 9 1) :
    carryLaneClose slot s = s.answerWith .badParam [] := by
  unfold carryLaneClose
  split
  · rename_i l discard lane switch
    have low := lt_of_laneNo? lane
    have two := le_of_twoValued switch
    omega
  · rfl
  · rfl

variable (named : slotField slot 8 1 = l) (two : slotField slot 9 1 ≤ 1)
include named two

theorem carryLaneClose_closed (state : (s.lane l).state = .closed) : carryLaneClose slot s = s.answerWith .ok [] := by
  simp only [carryLaneClose, named, laneNo?_val, switch?_of_le two, state]

theorem carryLaneClose_idle (state : (s.lane l).state = .halted ∨ (s.lane l).state = .closing) :
    carryLaneClose slot s = s := by
  rcases state with state | state <;> simp only [carryLaneClose, named, laneNo?_val, switch?_of_le two, state]

omit two in
theorem carryLaneClose_drains (drain : slotField slot 9 1 = 0) (state : (s.lane l).state = .opened) :
    carryLaneClose slot s = s.setLane l { s.lane l with state := .closing, closeWritten := 0 } := by
  simp [carryLaneClose, named, switch?_of_le, state, drain]

theorem carryLaneClose_discards
    (state : (s.lane l).state = .starved ∨ (s.lane l).state = .opened ∧ slotField slot 9 1 = 1) :
    carryLaneClose slot s = closeWithLoss l (s.setLane l { s.lane l with closeWritten := 0 }) := by
  rcases state with state | ⟨state, discard⟩
  · simp only [carryLaneClose, named, laneNo?_val, switch?_of_le two, state]
  · simp only [carryLaneClose, named, laneNo?_val, discard, switch?_of_le (Nat.le_refl 1), state, decide_true, if_true]

end

/-! ### The end of a drain -/

section
variable {s : State} {l : LaneNo}

theorem execCloseDrainEnd_drained (state : (s.lane l).state = .closing) (drained : (s.stage l).fifo = []) :
    exec (.closeDrainEnd l) s = .next (drainEnd l s) := congrArg Host.Outcome.next (if_pos ⟨state, drained⟩)

theorem execCloseDrainEnd_idle (idle : (s.lane l).state ≠ .closing ∨ (s.stage l).fifo ≠ []) :
    exec (.closeDrainEnd l) s = .next s := by
  refine congrArg Host.Outcome.next (if_neg ?_)
  rintro ⟨state, drained⟩
  rcases idle with other | some'
  · exact other state
  · exact some' drained

theorem drainEnd_of_no_tally (none' : (s.stage l).tally.dropped = 0) : drainEnd l s = endClose l .ok 0 s := if_pos none'

/-- With a tally, the final DROPPED record is staged, and a page sought or the record written; the close ends when that
leaves nothing (R134, R144). -/
theorem drainEnd_of_tally (some' : 0 < (s.stage l).tally.dropped) {staged u : State} (formed : formDropped l s = staged)
    (written : (if (staged.lane l).current = none then seekPage l staged else writeNext l staged) = u) :
    drainEnd l s = if (u.stage l).fifo = [] ∧ (u.stage l).tally.dropped = 0 then endClose l .ok 0 u else u := by
  rw [← written, ← formed]
  exact if_neg some'.ne'

/-- The head record leaves its FIFO, and the tally stays. -/
theorem writeHead_stage {p : CurrentPage} {r : Record} {rest : List Record} (page : (s.lane l).current = some p)
    (head : (s.stage l).fifo = r :: rest) : (writeHead l s).stage l = { s.stage l with fifo := rest } := by
  rw [writeHead_eq page head]
  simp

end

/-- Settles O41: LANE_CLOSE by the state of its lane, the end of a drain with and without a tally, and the end of a
close. -/
theorem laneClosesByDrainOrLoss : Obligations.LaneClosesByDrainOrLoss := by
  intro slot s n discard ends
  have carried (h : s.Holds 0x31 slot) : exec .laneClose s = .next (carryLaneClose slot s.begun) :=
    congrArg Host.Outcome.next (h.carryOut carryLaneClose)
  have answered (h : s.Holds 0x31 slot) {o : ReqOutcome} (eq : carryLaneClose slot s.begun = s.begun.answerWith o []) :
      exec .laneClose s = .next (s.returns o (zeros 16)) :=
    (carried h).trans (congrArg Host.Outcome.next (eq.trans (s.begun_answerWith o [] h.busy)))
  have ended (l : LaneNo) (o : ReqOutcome) (lost : Nat) (u : State) (busy : u.engine.state = .busy)
      (handed : u.engine.handed = none) : .next (endClose l o lost u) = ends l o lost u :=
    congrArg Host.Outcome.next (endClose_eq busy handed o lost)
  refine ⟨fun h refused => answered h (carryLaneClose_refused refused), fun l => ?_⟩
  intro w g lost begun emptied u
  refine ⟨fun h named two state => answered h (carryLaneClose_closed (s := s.begun) named two state),
    fun h named two state => (carried h).trans (congrArg _ (carryLaneClose_idle (s := s.begun) named two state)),
    fun h named drain state => (carried h).trans (congrArg _ (carryLaneClose_drains (s := s.begun) named drain state)),
    fun h named two state => ?_, fun busy handed state drained none' => ?_, fun busy handed => ?_,
    execCloseDrainEnd_idle, ?_⟩
  · rw [carried h, carryLaneClose_discards (s := s.begun) named two state, closeWithLoss_eq]
    have lane : begun.lane l = { w with closeWritten := 0 } := State.setLane_lane_self ..
    show Host.Outcome.next
      (endClose l .loss lost ((begun.discarded l).setLane l { begun.lane l with rereadAt := none })) = _
    rw [lane]
    exact ended _ _ _ _ h.busy rfl
  · rw [execCloseDrainEnd_drained state drained, drainEnd_of_no_tally none', ended _ _ _ _ busy handed]
  · intro shed
    rw [closeWithLoss_eq]
    exact ended _ _ _ _ busy handed
  · intro first last state drained some' timed timed' report whole rest staged
    have formed : formDropped l s = staged := by
      rw [formDropped_eq timed timed', drained]
      rfl
    have drains {v : State} (written : (if (staged.lane l).current = none then seekPage l staged
        else writeNext l staged) = v) : exec (.closeDrainEnd l) s = .next
          (if (v.stage l).fifo = [] ∧ (v.stage l).tally.dropped = 0 then endClose l .ok 0 v else v) :=
      (execCloseDrainEnd_drained state drained).trans (congrArg _ (drainEnd_of_tally some' formed written))
    have stage : staged.stage l = { g with fifo := [.dropped report], tally := rest } := State.setStage_stage_self ..
    refine ⟨fun page => ?_, fun p page => ?_⟩
    · rw [drains (if_pos page), (seekPage_noClose staged l).stage, stage]
      exact congrArg _ (if_neg (by simp))
    · have page' : (staged.lane l).current = some p := page
      have head : (staged.stage l).fifo = [.dropped report] := by rw [stage]
      have writes : (if (staged.lane l).current = none then seekPage l staged else writeNext l staged)
          = writeNext l staged := if_neg (by simp [page'])
      have wrote : (writeHead l staged).stage l = { g with fifo := [], tally := rest } := by
        rw [writeHead_stage page' head, stage]
      have engine : (writeHead l staged).engine = s.engine := (State.LaneOnly.refl.writeHead l).engine
      refine ⟨fun fits whole' busy handed => ?_, fun fits left => ?_, fun full => ?_⟩
      · rw [drains (writes.trans (writeNext_fits page' head fits)), wrote, if_pos ⟨rfl, whole'⟩]
        exact ended _ _ _ _ (engine ▸ busy) (engine ▸ handed)
      · rw [drains (writes.trans (writeNext_fits page' head fits)), wrote, if_neg fun none' => left none'.2]
      · have kept := (closePage_noClose staged l .full).trans (seekPage_noClose _ l)
        rw [drains (writes.trans (writeNext_full page' head full)), kept.stage, stage]
        exact congrArg _ (if_neg (by simp))

end Sys2Proof.Machine
end

section
/-! SUPPORT. What the operations of every block but the Request Engine put out at the bus, and that they leave an engine
that waits for no answer alone (R146, R153, R154, R157, R162). -/

namespace Sys2Proof.Machine

/-- From s to t the bus puts out what R154 and R162 allow, and an engine that waits for no answer stays as it is. -/
structure State.Serves (s t : State) : Prop where
  emits : s.bus.Emits t.bus
  engine : s.engine.state ≠ .busy → t.engine = s.engine

theorem State.Serves.refl (s : State) : s.Serves s := ⟨.refl _, fun _ => rfl⟩

theorem State.Serves.trans {s t u : State} (h : s.Serves t) (g : t.Serves u) : s.Serves u := by
  refine ⟨h.emits.trans g.emits, fun free => ?_⟩
  have kept := h.engine free
  exact (g.engine (kept ▸ free)).trans kept

theorem State.TableOnly.serves {s t : State} (h : s.TableOnly t) : s.Serves t := ⟨h.bus ▸ .refl _, fun _ => h.engine⟩

theorem State.LaneOnly.serves {s t : State} (h : s.LaneOnly t) : s.Serves t := ⟨h.emits, fun _ => h.engine⟩

/-! ### CAUSE and answers -/

section
variable {s t : State} (h : s.Serves t)
include h

theorem State.Serves.same {u : State} (bus : u.bus = t.bus) (engine : u.engine = t.engine) : s.Serves u :=
  h.trans ⟨bus ▸ .refl _, fun _ => engine⟩

theorem State.Serves.setCause (bit : CauseBit) : s.Serves (t.setCause bit) :=
  h.trans (State.LaneOnly.refl.setCause bit).serves

/-- An answer is taken only while the engine waits for it. -/
theorem State.Serves.answerWith (o : ReqOutcome) (fs : List (Nat × List Byte)) : s.Serves (t.answerWith o fs) :=
  h.trans ⟨.refl _, fun free => by simp [State.answerWith, free]⟩

theorem State.Serves.offerOrDiscard (l : Option LaneNo) (x : Source) (r : Record) :
    s.Serves (t.offerOrDiscard l x r) := h.same (by simp) (by simp)

/-! ### The Timebase and the discipline -/

theorem State.Serves.stepTo (cause : StepCause) (total offset : Int) : s.Serves (stepTo cause total offset t) := by
  refine State.Serves.setCause (h.same ?_ ?_) .time <;> rfl

theorem State.Serves.carrySetTime (slot : List Byte) : s.Serves (carrySetTime slot t) := by
  unfold Machine.carrySetTime
  dsimp only
  split
  · exact h.answerWith ..
  · refine (State.Serves.stepTo (h.same ?_ ?_) ..).answerWith .. <;> rfl

theorem State.Serves.carryAdjustTime (slot : List Byte) : s.Serves (carryAdjustTime slot t) := by
  unfold Machine.carryAdjustTime
  dsimp only
  split
  · exact h.answerWith ..
  · split
    · exact (h.stepTo ..).answerWith ..
    · refine State.Serves.answerWith (h.same ?_ ?_) .. <;> rfl

theorem State.Serves.carrySetFrequency (slot : List Byte) : s.Serves (carrySetFrequency slot t) := by
  refine State.Serves.answerWith (h.same ?_ ?_) .. <;> rfl

theorem State.Serves.causeOnChange (q : Quality) : s.Serves (t.causeOnChange q) := by
  unfold State.causeOnChange
  split
  · exact h
  · exact h.setCause .time

theorem State.Serves.captureEdge (within : CycleFraction) : s.Serves (captureEdge within t) := by
  unfold Machine.captureEdge
  split
  · refine State.Serves.causeOnChange (h.same ?_ ?_) _ <;> rfl
  · exact h.same rfl rfl

theorem State.Serves.enterHoldover : s.Serves (enterHoldover t) := by
  refine ((h.same ?_ ?_).offerOrDiscard ..).setCause .time <;> rfl

theorem State.Serves.processEdge (e : Edge) : s.Serves (processEdge e t) := by
  unfold Machine.processEdge
  dsimp only
  split <;> exact h.same rfl rfl

theorem State.Serves.takeCorrection (e : Edge) (m : Measured) (c : Correction) : s.Serves (takeCorrection e m c t) := by
  have applied : s.Serves (applyCorrection c t) := by
    cases c with
    | step offset => exact h.stepTo ..
    | slew deltaF newSlew => exact h.same rfl rfl
    | held deltaF => exact h.same rfl rfl
  unfold Machine.takeCorrection
  split
  · exact applied.same rfl rfl
  · exact h.same rfl rfl

theorem State.Serves.completeAnswered : s.Serves (completeAnswered t) := by
  unfold Machine.completeAnswered
  split
  · split
    · refine ((h.same ?_ ?_).offerOrDiscard ..).causeOnChange _ <;> rfl
    · exact h
    · exact h
  · exact h

theorem State.Serves.carryDisciplineSet (slot : List Byte) : s.Serves (carryDisciplineSet slot t) := by
  have disabled (p : DisciplineParams) : s.Serves (disableDiscipline p t) := by
    have done := h.completeAnswered
    unfold disableDiscipline
    dsimp only
    split
    · exact done.same rfl rfl
    · refine ((done.same ?_ ?_).offerOrDiscard ..).setCause .time <;> rfl
  have applied (p : DisciplineParams) : s.Serves (applyDiscipline p t) := by
    unfold applyDiscipline
    split
    · exact h.same rfl rfl
    · split
      · exact disabled p
      · exact h.same rfl rfl
  unfold Machine.carryDisciplineSet
  split
  · exact h.answerWith ..
  · exact (applied _).answerWith ..

/-! ### The ports -/

theorem State.Serves.setPort (k : PortNo) (p : Port) : s.Serves (t.setPort k p) := h.same rfl rfl
theorem State.Serves.bump (c : Counter) : s.Serves (t.bump c) := h.same rfl rfl

theorem State.Serves.portNotice (k : PortNo) (n : Nat) : s.Serves (portNotice k n t) :=
  (h.offerOrDiscard ..).setCause .port

theorem State.Serves.abortFrame (k : PortNo) : s.Serves (abortFrame k t) := by
  unfold Machine.abortFrame
  dsimp only
  split
  · exact (h.setPort ..).bump _
  · exact h

theorem State.Serves.changeLink (k : PortNo) (link : LinkState) : s.Serves (changeLink k link t) := by
  unfold Machine.changeLink
  dsimp only
  split
  · exact h
  · have linked := h.setPort k { t.port k with link := link }
    split <;> split
    · exact (linked.abortFrame k).portNotice ..
    · exact linked.portNotice ..
    · exact linked.abortFrame k
    · exact linked

theorem State.Serves.latchFrame (k : PortNo) (within : CycleFraction) : s.Serves (latchFrame k within t) := by
  unfold Machine.latchFrame
  dsimp only
  split
  · exact h.setPort ..
  · exact h

theorem State.Serves.countError (k : PortNo) : s.Serves (countError k t) := by
  unfold Machine.countError
  dsimp only
  split
  · exact h.setPort ..
  · exact ((h.setPort ..).setPort ..).portNotice ..

theorem State.Serves.goodFrame (f : Frame) : s.Serves (goodFrame f t) := by
  unfold Machine.goodFrame
  dsimp only
  split
  · exact h.bump _
  · split
    · exact (h.setPort ..).bump _
    · exact h.bump _

theorem State.Serves.badFrame (f : Frame) : s.Serves (badFrame f t) := by
  have counted := (h.bump (.port f.port .fcsErrors)).countError f.port
  unfold Machine.badFrame
  dsimp only
  split
  · exact (counted.bump _).offerOrDiscard ..
  · exact counted

theorem State.Serves.endFrame (k : PortNo) (bytes : List Byte) : s.Serves (endFrame k bytes t) := by
  unfold Machine.endFrame
  dsimp only
  split
  · have unlatched := h.setPort k { t.port k with latch := none }
    unfold checkFrame
    split
    · exact unlatched.bump _
    · split
      · exact unlatched.bump _
      · split
        · exact unlatched.goodFrame _
        · exact unlatched.badFrame _
  · exact h

theorem State.Serves.endWindow (k : PortNo) (start : Count) : s.Serves (endWindow k start t) := by
  unfold Machine.endWindow
  dsimp only
  split
  · exact (h.setPort ..).portNotice ..
  · exact h.setPort ..

theorem State.Serves.carryPortSet (slot : List Byte) : s.Serves (carryPortSet slot t) := by
  have applied (p : PortParams) : s.Serves (applyPort p t) := by
    have settled := h.setPort p.port ((t.port p.port).withSettings p.settings)
    unfold applyPort
    dsimp only
    split
    · exact settled
    · split
      · exact (settled.setPort ..).portNotice ..
      · exact (settled.abortFrame _).setPort ..
  unfold Machine.carryPortSet
  split
  · exact h.answerWith ..
  · exact (applied _).answerWith ..

theorem State.Serves.carryPortReadmit (slot : List Byte) : s.Serves (carryPortReadmit slot t) := by
  have readmitted (k : PortNo) : s.Serves (readmit k t) := by
    unfold readmit
    dsimp only
    split
    · split
      · exact (h.setPort ..).portNotice ..
      · exact h.setPort ..
    · exact h
  unfold Machine.carryPortReadmit
  split
  · exact h.answerWith ..
  · exact (readmitted _).answerWith ..

/-! ### The Classifier -/

theorem State.Serves.handToTable (f : Classified) : s.Serves (handToTable f t) := by
  unfold Machine.handToTable
  split <;> exact h.same rfl rfl

theorem State.Serves.classifyHead (k : PortNo) : s.Serves (classifyHead k t) := by
  unfold Machine.classifyHead
  dsimp only
  split
  · rename_i rest _ _
    have taken := h.setPort k { t.port k with queue := rest }
    unfold classify
    split
    · unfold setAsideUnmapped
      dsimp only
      split
      · exact (taken.bump _).offerOrDiscard ..
      · exact taken.bump _
    · unfold setAsideForeign
      dsimp only
      split <;> exact taken.same rfl rfl
    · exact taken.handToTable _
  · exact h
  · exact h

theorem State.Serves.changeMaps (ports : List PortNo) (change : AddressMap → AddressMap) :
    s.Serves (changeMaps ports change t) := by
  induction ports generalizing t with
  | nil => exact h
  | cons k ks ih => exact ih (h.same rfl rfl)

theorem State.Serves.carryMapAdd (slot : List Byte) : s.Serves (carryMapAdd slot t) := by
  unfold Machine.carryMapAdd
  split
  · exact h.answerWith ..
  · split
    · exact h.answerWith ..
    · split
      · exact h.answerWith ..
      · exact (h.changeMaps ..).answerWith ..

theorem State.Serves.carryMapRemove (slot : List Byte) : s.Serves (carryMapRemove slot t) := by
  unfold Machine.carryMapRemove
  dsimp only
  split
  · exact h.answerWith ..
  · split
    · exact h.answerWith ..
    · exact (h.changeMaps ..).answerWith ..

theorem State.Serves.carryPatternLoad (slot : List Byte) : s.Serves (carryPatternLoad slot t) := by
  unfold Machine.carryPatternLoad
  dsimp only
  split
  · exact h.answerWith ..
  · refine State.Serves.answerWith (h.same ?_ ?_) .. <;> rfl

theorem State.Serves.setChannel (ch : ChannelNo) (c : Channel) : s.Serves (t.setChannel ch c) := h.same rfl rfl

theorem State.Serves.carryChannelSet (slot : List Byte) : s.Serves (carryChannelSet slot t) := by
  unfold Machine.carryChannelSet
  split
  · exact h.answerWith ..
  · split
    · exact h.answerWith ..
    · split
      · exact h.answerWith ..
      · exact (h.setChannel ..).answerWith ..

theorem State.Serves.carryChannelStart (slot : List Byte) : s.Serves (carryChannelStart slot t) := by
  unfold Machine.carryChannelStart
  split
  · exact h.answerWith ..
  · dsimp only
    split
    · exact h.answerWith ..
    · exact (h.setChannel ..).answerWith ..

/-! ### The Arbitration Table -/

theorem State.Serves.takeInput (k : PortNo) : s.Serves (takeInput k t) := by
  have refilled {u : State} (g : s.Serves u) : s.Serves (refillInput k u) := by
    unfold refillInput
    split
    · exact g.same rfl rfl
    · exact g
  unfold Machine.takeInput
  split
  · have emptied : s.Serves (t.setInput k none) := h.same rfl rfl
    refine refilled ?_
    unfold takeClassified
    dsimp only
    split
    · exact emptied.bump _
    · exact emptied.trans ((State.TableOnly.refl _).arbitrate _).serves
  · exact h

theorem State.Serves.takeExpiry : s.Serves (takeExpiry t) := by
  unfold Machine.takeExpiry
  split
  · split
    · exact h.trans ((State.TableOnly.refl t).removeEntry ..).serves
    · exact h
  · exact h

theorem State.Serves.carryChannelStop (slot : List Byte) : s.Serves (carryChannelStop slot t) := by
  unfold Machine.carryChannelStop
  split
  · exact h.answerWith ..
  · split
    · exact (h.trans ((State.TableOnly.refl t).stopChannel _).serves).answerWith ..
    · exact h.answerWith ..

/-! ### The Staging Buffer and the Lane Writers -/

theorem State.Serves.setLane (l : LaneNo) (w : Lane) : s.Serves (t.setLane l w) := h.same rfl rfl

theorem State.Serves.carryPartitionSet (slot : List Byte) : s.Serves (carryPartitionSet slot t) := by
  have divided (a c : LaneNo → Nat) (ls : List LaneNo) :
      s.Serves (ls.foldl (fun t l => setPartition l (a l) (c l) t) t) := by
    induction ls generalizing t with
    | nil => exact h
    | cons l ls ih => exact ih (h.same rfl rfl)
  unfold Machine.carryPartitionSet
  dsimp only
  split
  · exact h.answerWith ..
  · split
    · exact h.answerWith ..
    · exact (divided ..).answerWith ..

theorem State.Serves.endClose (l : LaneNo) (o : ReqOutcome) (lost : Nat) : s.Serves (endClose l o lost t) :=
  ((h.trans ((State.LaneOnly.refl.closePage l .flush).announceRest l).serves).setLane ..).answerWith ..

theorem State.Serves.closeWithLoss (l : LaneNo) : s.Serves (closeWithLoss l t) := by
  have emptied := (((State.LaneOnly.refl (s := t)).setStage l
    { t.stage l with fifo := [], tally := .empty
                     dropTotal := (t.stage l).dropTotal + BitVec.ofNat 32 (lossCount (t.stage l).fifo) }).bumpBy
    (.lane l .closeDiscards) (lossCount (t.stage l).fifo)).disownReads fun p => decide (p = .ownerWord l)
  exact ((h.trans emptied.serves).setLane ..).endClose ..

theorem State.Serves.drainEnd (l : LaneNo) : s.Serves (drainEnd l t) := by
  have formed := (State.LaneOnly.refl (s := t)).formDropped l
  have sought := h.trans (formed.seekPage l).serves
  have written := h.trans (formed.writeNext l).serves
  unfold Machine.drainEnd
  dsimp only
  split
  · exact h.endClose ..
  · split <;> split
    · exact sought.endClose ..
    · exact sought
    · exact written.endClose ..
    · exact written

theorem State.Serves.carryLaneClose (slot : List Byte) : s.Serves (carryLaneClose slot t) := by
  have discarded (l : LaneNo) := (h.setLane l { t.lane l with closeWritten := 0 }).closeWithLoss l
  unfold Machine.carryLaneClose
  split
  · dsimp only
    split
    · exact h.answerWith ..
    · split
      · exact discarded _
      · exact h.setLane ..
    · exact discarded _
    · exact h
    · exact h
  · exact h.answerWith ..
  · exact h.answerWith ..

theorem State.Serves.carryLaneOpen (slot : List Byte) : s.Serves (carryLaneOpen slot t) := by
  unfold Machine.carryLaneOpen
  split
  · exact h.answerWith ..
  · dsimp only
    split
    · exact h.answerWith ..
    · split
      · exact h.answerWith ..
      · split
        · exact h
        · exact h.trans ((State.LaneOnly.refl.setLane ..).issueRead ..).serves

theorem State.Serves.pageListRead (l : LaneNo) (o : Opening) (pages : List Address) :
    s.Serves (pageListRead l o pages t) := by
  unfold Machine.pageListRead
  dsimp only
  split
  · exact (h.setLane ..).answerWith ..
  · refine State.Serves.answerWith (h.same ?_ ?_) .. <;> rfl

theorem State.Serves.ownerReadDone (l : LaneNo) (r : ReadOp) (word : BitVec 32) :
    s.Serves (ownerReadDone l r word t) := by
  have noted := (State.LaneOnly.refl (s := t)).dropRead r.tag |>.noteAge r
  have served := h.trans noted.serves
  unfold Machine.ownerReadDone
  dsimp only
  split
  · unfold ownerWordRead
    dsimp only
    split
    · exact h.trans (noted.takePage l _).serves
    · split
      · exact (served.setLane ..).bump _
      · exact served.setLane ..
      · exact (served.bump _).closeWithLoss l
      · exact served
      · exact served
  · exact h.trans (noted.seekPage l).serves

/-! ### The counter snapshot -/

theorem State.Serves.carrySnapshot (slot : List Byte) : s.Serves (carrySnapshot slot t) := by
  unfold Machine.carrySnapshot
  dsimp only
  split
  · split
    · exact h.answerWith ..
    · split
      · exact h
      · exact h.trans ⟨.of_same rfl rfl rfl id, fun _ => rfl⟩
  · exact h.answerWith ..

end

end Sys2Proof.Machine
end

section
/-! SUPPORT. What each command puts out at the bus, said once: host-memory accesses only while the bus is NORMAL, and one
interrupt message exactly when the summary rises (R154, R162). -/

namespace Sys2Proof.Machine

/-! ### Registers that change, and the message -/

@[simp] theorem BusInterface.withMessage_summary (b c : BusInterface) : (b.withMessage c).summary = c.summary := by
  rw [BusInterface.withMessage_eq]
  rfl

@[simp] theorem BusInterface.withMessage_faulted (b c : BusInterface) : (b.withMessage c).faulted = c.faulted := by
  rw [BusInterface.withMessage_eq]

/-- A change of registers that leaves the log and the message capability adds one message when the summary rises with
sending enabled, and else nothing (R154). -/
theorem BusInterface.withMessage_log {b c : BusInterface} (message : c.message = b.message) (log : c.log = b.log) :
    (b.withMessage c).log = b.log ++
      if b.summary = false ∧ c.summary = true ∧ b.message.sending = true
        then [.message b.message.address b.message.data] else [] := by
  unfold BusInterface.withMessage BusInterface.sendMessage
  rw [message, log]
  cases b.summary <;> cases c.summary <;> cases b.message.sending <;> simp [log]

/-- A write of CONTROL without FRESET may make the summary rise or fall; a rise sends the message (R152, R154). -/
theorem setEnables_log (v : BitVec 32) (s : State) :
    (setEnables v s).bus.log = s.bus.log ++
      if s.bus.summary = false ∧ (setEnables v s).bus.summary = true ∧ s.bus.message.sending = true
        then [.message s.bus.message.address s.bus.message.data] else [] := by
  simp only [setEnables, BusInterface.withMessage_summary]
  exact BusInterface.withMessage_log rfl rfl

/-! ### The Request Engine -/

theorem State.BusOnly.emits {s t : State} (h : s.BusOnly t) : s.bus.Emits t.bus := h.toLane.emits

section
variable (s : State)

theorem readSlotState_emits (scan : Scan) : s.bus.Emits (readSlotState scan s).bus :=
  State.emits_issueRead { s with engine := { s.engine with scan := some scan } } ..

theorem beginScan_emits : s.bus.Emits (beginScan s).bus := by
  unfold beginScan
  split
  · exact readSlotState_emits ..
  · exact .refl _

theorem passSlot_emits (scan : Scan) : s.bus.Emits (passSlot scan s).bus := by
  unfold passSlot
  split
  · exact .refl _
  · exact readSlotState_emits ..

theorem slotReadDone_emits (r : ReadOp) (bytes : List Byte) : s.bus.Emits (slotReadDone r bytes s).bus := by
  have dropped := (State.BusOnly.refl (s := s)).dropRead r.tag
  have noted := dropped.noteAge r
  have passed (scan : Scan) := noted.emits.trans (passSlot_emits _ scan)
  unfold slotReadDone
  dsimp only
  split
  · split
    · unfold slotWholeRead
      split
      · exact (noted.writeAt ..).emits
      · exact passed _
    · unfold slotStateRead
      split
      · exact (noted.issueRead ..).emits
      · exact passed _
  · exact dropped.emits
  · exact dropped.emits

theorem completeRequest_emits (slot : List Byte) (a : Answer) : s.bus.Emits (completeRequest slot a s).bus := by
  unfold completeRequest
  dsimp only
  generalize ([_, _] : List Run) = body
  have written := (((State.BusOnly.refl (s := s).issueWrite body).writeAt (s.slotAddress s.engine.lastSlot + 2)
    (leBytes 1 a.outcome.code)).writeAt (s.slotAddress s.engine.lastSlot) (leBytes 1 3)).setCause .request
  exact written.emits.trans (beginScan_emits _)

theorem nudge_emits : s.bus.Emits ((List.finRange 4).foldl (fun t l => reread l t) (beginScan s)).bus := by
  have scanned := beginScan_emits s
  generalize beginScan s = u at scanned
  induction List.finRange 4 generalizing u with
  | nil => exact scanned
  | cons l ls ih => exact ih _ (scanned.trans (State.LaneOnly.refl.reread l).emits)

/-! ### The Bus Interface's own registers, the Status Block and the snapshot -/

theorem writeArea_emits (access : AreaWrite) : s.bus.Emits (writeArea access s).bus := by
  have presented (v : BitVec 64) : s.bus.Emits (presentArea v s).bus := by
    unfold presentArea
    dsimp only
    split <;> exact .of_same rfl rfl rfl id
  cases access with
  | whole v => exact presented v
  | lowerHalf v => exact .of_same rfl rfl rfl id
  | upperHalf v => exact presented _

theorem foldl_writeArea_busOnly (fields : List (Nat × List Byte)) :
    s.BusOnly (fields.foldl (fun t f => t.writeArea f.1 f.2) s) := by
  have written (u : State) (h : s.BusOnly u) : s.BusOnly (fields.foldl (fun t f => t.writeArea f.1 f.2) u) := by
    induction fields generalizing u with
    | nil => exact h
    | cons f fs ih => exact ih _ (h.writeArea ..)
  exact written s .refl

theorem refreshStatus_emits : s.bus.Emits (refreshStatus s).bus := by
  have written := (foldl_writeArea_busOnly s (statusFields s (s.bus.refreshCount + 1))).emits
  unfold refreshStatus
  dsimp only
  generalize (statusFields s (s.bus.refreshCount + 1)).foldl (fun t f => t.writeArea f.1 f.2) s = u at written
  exact written.trans (.of_same rfl rfl rfl id)

theorem copyCounter_emits (c : SnapshotCopy) (name : Counter) : s.bus.Emits (copyCounter c name s).bus := by
  have written (u : State) (a : Address) (bytes : List Byte) : u.bus.Emits (afterCopy c (u.writeAt a bytes)).bus := by
    have issued := (State.BusOnly.refl (s := u).writeAt a bytes).emits
    unfold afterCopy
    split <;> exact issued.trans (.of_same rfl rfl rfl id)
  unfold copyCounter
  dsimp only
  split <;> exact written ..

/-- The first read failure puts out the message of CAUSE FAULT, at most (R161, R162). -/
theorem failRead_emits (r : ReadOp) : s.bus.Emits (failRead r s).bus := by
  unfold failRead
  split
  · exact (State.BusOnly.refl.dropRead _).emits
  · unfold enterFaulted
    refine BusInterface.Emits.trans ?_ (State.emits_setCause _ .fault)
    exact .of_same rfl rfl rfl fun _ => rfl

end

/-! ### What a command can do -/

/-- The commands that reset the part: the two resets, and a CONTROL write with FRESET (R37, R152, R163). -/
abbrev IsReset (c : Instr) : Prop :=
  c = .coldReset ∨ c = .functionReset ∨ ∃ v : BitVec 32, c = .setEnables v ∧ v.getLsbD 31 = true

/-- What a command makes of a state, as far as the bus puts out something: a reset puts out nothing and leaves the summary
false, a CAUSE read replies, a CONTROL write moves the enables, and any other keeps the summary once it is true. -/
inductive BusStep (s : State) : Instr → State → Prop
  | emits {c : Instr} {t : State} (h : s.bus.Emits t.bus) : BusStep s c t
  | reset {c : Instr} {t : State} (resets : IsReset c) (log : t.bus.log = s.bus.log) (quiet : t.bus.summary = false) :
      BusStep s c t
  | causeRead : BusStep s .causeRead (readCause s)
  | setEnables (v : BitVec 32) : BusStep s (.setEnables v) (setEnables v s)

section
variable {s t : State} {c : Instr}

/-- An operation of a block other than the Request Engine. -/
theorem BusStep.serves (h : s.Serves t) : BusStep s c t := .emits h.emits

/-- What a command does only where a condition holds. -/
theorem BusStep.ite {p : Prop} [Decidable p] (h : BusStep s c t) : BusStep s c (if p then t else s) := by
  split
  · exact h
  · exact .emits (.refl _)

/-- An owner of a request. -/
theorem BusStep.carryOut {code : Nat} {act : List Byte → State → State} (h : ∀ slot u, State.Serves u (act slot u)) :
    BusStep s c (s.carryOut code act) := by
  rcases s.carryOut_cases code act with e | ⟨slot, e⟩ <;> rw [e]
  · exact .emits (.refl _)
  · exact .emits (h slot s.begun).emits

theorem BusStep.same : BusStep s c s := .emits (.refl _)

theorem BusStep.of_setEnables {v : BitVec 32} (e : execSetEnables v s = .next t) : BusStep s (.setEnables v) t := by
  cases e
  split
  · rename_i freset
    exact .reset (.inr (.inr ⟨v, rfl, by simpa [BitVec.msb_eq_getLsbD_last] using freset⟩)) rfl rfl
  · exact .setEnables v

theorem BusStep.of_errorWindowEnd {k : PortNo} (e : execErrorWindowEnd k s = .next t) : BusStep s c t := by
  cases e
  split
  · exact (BusStep.serves ((State.Serves.refl s).endWindow ..)).ite
  · exact .same

theorem BusStep.of_edgeProcess (e : execEdgeProcess s = .next t) : BusStep s c t := by
  cases e
  split
  · exact (BusStep.serves ((State.Serves.refl s).processEdge _)).ite
  · exact .same

theorem BusStep.of_disciplineCorrection (e : execDisciplineCorrection s = .next t) : BusStep s c t := by
  cases e
  split
  · split
    · exact .serves ((State.Serves.refl s).takeCorrection ..)
    · exact .same
    · exact .same
  · exact .same

theorem BusStep.of_pageListReadDone {tag : Nat} {bytes : List Byte} (e : execPageListReadDone tag bytes s = .next t) :
    BusStep s c t := by
  cases e
  split
  · rename_i r _
    split
    · split
      · have noted := ((State.LaneOnly.refl (s := s)).dropRead tag).noteAge r
        exact (BusStep.serves (noted.serves.pageListRead ..)).ite
      · exact .same
    · exact .same
    · exact .same
    · exact .same
  · exact .same

theorem BusStep.of_counterCopy (e : execCounterCopy s = .next t) : BusStep s c t := by
  cases e
  split
  · split
    · exact .emits (copyCounter_emits ..)
    · exact .same
  · exact .same

theorem BusStep.of_badRequest (e : execBadRequest s = .next t) : BusStep s c t := by
  cases e
  split
  · split
    · exact .same
    · exact .emits (completeRequest_emits ..)
  · exact .same

theorem BusStep.of_requestComplete (e : execRequestComplete s = .next t) : BusStep s c t := by
  cases e
  split
  · exact .emits (completeRequest_emits ..)
  · exact .same

theorem BusStep.of_slotReadDone {tag : Nat} {bytes : List Byte} (e : execSlotReadDone tag bytes s = .next t) :
    BusStep s c t := by
  cases e
  split
  · exact (BusStep.emits (slotReadDone_emits ..)).ite
  · exact .same

theorem BusStep.of_offerRecord {position : Nat} (e : execOfferRecord position s = .next t) : BusStep s c t := by
  cases e
  split
  · rename_i o _
    have begun : s.Serves { s with offers := s.offers.eraseIdx position } := (State.Serves.refl s).same rfl rfl
    exact (BusStep.serves (begun.trans ((State.LaneOnly.refl.takeOffer o).seekPage o.lane).serves)).ite
  · exact .same

theorem BusStep.of_ownerWordReadDone {tag : Nat} {word : BitVec 32} (e : execOwnerWordReadDone tag word s = .next t) :
    BusStep s c t := by
  cases e
  split
  · split
    · split
      · exact .same
      · exact .serves ((State.Serves.refl s).ownerReadDone ..)
    · exact .same
    · exact .same
    · exact .same
  · exact .same

theorem BusStep.of_readFailure {tag : Nat} (e : execReadFailure tag s = .next t) : BusStep s c t := by
  cases e
  split
  · split
    · exact .same
    · exact .emits (failRead_emits ..)
  · exact .same

theorem BusStep.of_readLimitExpiry {tag : Nat} (e : execReadLimitExpiry tag s = .next t) : BusStep s c t := by
  cases e
  split
  · exact (BusStep.emits (failRead_emits ..)).ite
  · exact .same

theorem BusStep.of_scanTimer (e : execScanTimer s = .next t) : BusStep s c t := by
  cases e
  have marked : s.bus.Emits { s.bus with scanTaken := true } := .of_same rfl rfl rfl id
  exact (BusStep.emits (marked.trans (beginScan_emits { s with bus := { s.bus with scanTaken := true } }))).ite

theorem BusStep.of_statusRefresh (e : execStatusRefresh s = .next t) : BusStep s c t := by
  rw [← Host.Outcome.next.inj e]
  have marked : s.bus.Emits { s.bus with refreshTaken := true } := .of_same rfl rfl rfl id
  exact (BusStep.emits (marked.trans (refreshStatus_emits { s with bus := { s.bus with refreshTaken := true } }))).ite

theorem exec_busStep (e : exec c s = .next t) : BusStep s c t := by
  have k := State.Serves.refl s
  have w := State.LaneOnly.refl (s := s)
  cases c with
  | coldReset => cases e; exact .reset (.inl rfl) rfl rfl
  | functionReset => cases e; exact .reset (.inr (.inl rfl)) rfl rfl
  | oscillatorCycleEnd => cases e; exact .emits (.of_same rfl rfl rfl id)
  | linkChange port link => cases e; exact .serves (k.changeLink port link)
  | frameFirstByte port within => cases e; exact .serves (k.latchFrame port within)
  | endOfFrame port bytes => cases e; exact .serves (k.endFrame port bytes)
  | errorWindowEnd port => exact .of_errorWindowEnd e
  | classifyFrame port => cases e; exact .serves (k.classifyHead port)
  | tableTakeFrame port => cases e; exact .serves (k.takeInput port)
  | expiry => cases e; exact .serves k.takeExpiry
  | ppsEdge edge within => cases e; exact (BusStep.serves (k.captureEdge within)).ite
  | edgeProcess => exact .of_edgeProcess e
  | disciplineCorrection => exact .of_disciplineCorrection e
  | edgeComplete => cases e; exact .serves k.completeAnswered
  | holdoverExpiry => cases e; exact (BusStep.serves k.enterHoldover).ite
  | setTime => cases e; exact .carryOut fun slot u => (State.Serves.refl u).carrySetTime slot
  | adjustTime => cases e; exact .carryOut fun slot u => (State.Serves.refl u).carryAdjustTime slot
  | setFrequency => cases e; exact .carryOut fun slot u => (State.Serves.refl u).carrySetFrequency slot
  | disciplineSet => cases e; exact .carryOut fun slot u => (State.Serves.refl u).carryDisciplineSet slot
  | portSet => cases e; exact .carryOut fun slot u => (State.Serves.refl u).carryPortSet slot
  | portReadmit => cases e; exact .carryOut fun slot u => (State.Serves.refl u).carryPortReadmit slot
  | mapAdd => cases e; exact .carryOut fun slot u => (State.Serves.refl u).carryMapAdd slot
  | mapRemove => cases e; exact .carryOut fun slot u => (State.Serves.refl u).carryMapRemove slot
  | patternLoad => cases e; exact .carryOut fun slot u => (State.Serves.refl u).carryPatternLoad slot
  | channelSet => cases e; exact .carryOut fun slot u => (State.Serves.refl u).carryChannelSet slot
  | channelStart => cases e; exact .carryOut fun slot u => (State.Serves.refl u).carryChannelStart slot
  | channelStop => cases e; exact .carryOut fun slot u => (State.Serves.refl u).carryChannelStop slot
  | laneOpen => cases e; exact .carryOut fun slot u => (State.Serves.refl u).carryLaneOpen slot
  | pageListReadDone read bytes => exact .of_pageListReadDone e
  | laneClose => cases e; exact .carryOut fun slot u => (State.Serves.refl u).carryLaneClose slot
  | closeDrainEnd lane => cases e; exact (BusStep.serves (k.drainEnd lane)).ite
  | partitionSet => cases e; exact .carryOut fun slot u => (State.Serves.refl u).carryPartitionSet slot
  | countersSnapshot => cases e; exact .carryOut fun slot u => (State.Serves.refl u).carrySnapshot slot
  | counterCopy => exact .of_counterCopy e
  | badRequest => exact .of_badRequest e
  | scanTimer => exact .of_scanTimer e
  | nudge => rw [← Host.Outcome.next.inj e]; exact .emits (nudge_emits s)
  | slotReadDone read bytes => exact .of_slotReadDone e
  | requestComplete => exact .of_requestComplete e
  | areaBaseWrite access => cases e; exact .emits (writeArea_emits s access)
  | setEnables value => exact .of_setEnables e
  | causeRead => cases e; exact .causeRead
  | ignoredRegisterWrite offset value => cases e; exact .same
  | statusRefresh => exact .of_statusRefresh e
  | readFailure read => exact .of_readFailure e
  | readLimitExpiry read => exact .of_readLimitExpiry e
  | offerRecord position => exact .of_offerRecord e
  | ownerWordReadDone read word => exact .of_ownerWordReadDone e
  | starvedReread lane => cases e; exact (BusStep.serves (w.reread lane).serves).ite
  | writeRecord lane => cases e; exact (BusStep.serves (w.writeNext lane).serves).ite
  | lingerExpiry lane => cases e; exact (BusStep.serves (w.lingerEnd lane).serves).ite
  | holdoffExpiry lane => cases e; exact (BusStep.serves (w.holdoffEnd lane).serves).ite

/-! ### What is put out -/

/-- The log grows by events: one message exactly on a rise of the summary, and no host-memory access while FAULTED. -/
theorem BusStep.puts_out (h : BusStep s c t) : ∃ events : List BusEvent, t.bus.log = s.bus.log ++ events
    ∧ events.filter BusEvent.isMessage =
        (if s.bus.summary = false ∧ t.bus.summary = true ∧ s.bus.message.sending = true
          then [.message s.bus.message.address s.bus.message.data] else [])
    ∧ (s.bus.faulted = true → ∀ e ∈ events, e.offMemory = true) := by
  cases h with
  | emits h =>
    obtain ⟨_, _, _, events, log, messages, off⟩ := h
    exact ⟨events, log, messages, off⟩
  | reset _ log quiet => exact ⟨[], by rw [log, List.append_nil], by simp [quiet], by simp⟩
  | causeRead =>
    refine ⟨[.reply (s.bus.cause.setWidth 32)], rfl, ?_, by simp [BusEvent.offMemory]⟩
    simp [BusEvent.isMessage, BusInterface.summary, readCause]
  | setEnables v =>
    refine ⟨_, setEnables_log v s, ?_, fun _ e => ?_⟩
    · split <;> rfl
    · split <;> simp +contextual [BusEvent.offMemory]

/-- A FAULTED bus stays so but for a reset (R162). -/
theorem BusStep.resets_of_normal (h : BusStep s c t) (faulted : s.bus.faulted = true)
    (normal : t.bus.faulted = false) : IsReset c := by
  cases h with
  | emits h =>
    obtain ⟨_, _, stays, _⟩ := h
    simp [stays faulted] at normal
  | reset resets _ _ => exact resets
  | causeRead => exact absurd (faulted.symm.trans normal) Bool.noConfusion
  | setEnables v => simp [Machine.setEnables, faulted] at normal

end

/-! ### Writes and reads by the state of the bus -/

theorem State.writeAt_of_faulted {s : State} (h : s.bus.faulted = true) (a : Address) (bytes : List Byte) :
    s.writeAt a bytes = s := if_pos h

theorem State.issueRead_of_faulted {s : State} (h : s.bus.faulted = true) (p : ReadPurpose) (a : Address) (n : Nat) :
    s.issueRead p a n = s := if_pos h

/-- s after events put out at the bus. -/
def State.puts (s : State) (events : List BusEvent) : State :=
  { s with bus := { s.bus with log := s.bus.log ++ events } }

@[simp] theorem State.puts_nil (s : State) : s.puts [] = s := by simp [State.puts]
@[simp] theorem State.puts_puts (s : State) (a b : List BusEvent) : (s.puts a).puts b = s.puts (a ++ b) := by
  simp [State.puts]
@[simp] theorem State.puts_faulted (s : State) (a : List BusEvent) : (s.puts a).bus.faulted = s.bus.faulted := rfl
@[simp] theorem State.puts_areaBase (s : State) (a : List BusEvent) : (s.puts a).bus.areaBase = s.bus.areaBase := rfl

/-- A write of a NORMAL bus joins the log (R162, log 4). -/
theorem State.issueWrite_of_normal {s : State} (h : s.bus.faulted = false) (runs : List Run) :
    s.issueWrite runs = s.puts [.write runs] := by
  rw [State.issueWrite, h]
  rfl

theorem State.writeAt_of_normal {s : State} (h : s.bus.faulted = false) (a : Address) (bytes : List Byte) :
    s.writeAt a bytes = s.puts [.write [{ address := a, bytes := bytes }]] := s.issueWrite_of_normal h _

/-- A read of a NORMAL bus joins the log and is outstanding (R161, R162, log 5). -/
theorem State.issueRead_of_normal {s : State} (h : s.bus.faulted = false) (p : ReadPurpose) (a : Address) (n : Nat) :
    s.issueRead p a n =
      { s with bus :=
        { s.bus with
          reads := s.bus.reads ++ [{ tag := s.bus.nextTag, purpose := p, address := a, length := n, issued := s.count
                                     wanted := true }]
          nextTag := s.bus.nextTag + 1
          log := s.bus.log ++ [.read s.bus.nextTag a n] } } := by
  rw [State.issueRead, h]
  rfl

/-- Settles O59: what each command puts out, and the writes and reads by the state of the bus. -/
theorem faultedBusIssuesNoMemoryAccess : Obligations.FaultedBusIssuesNoMemoryAccess := by
  refine ⟨fun c s t faulted e => ?_, fun purpose address bytes n s => ⟨fun faulted => ?_, fun normal => ?_, ?_, ?_⟩⟩
  · have did := exec_busStep e
    obtain ⟨events, log, _, off⟩ := did.puts_out
    exact ⟨⟨events, log, off faulted⟩, did.resets_of_normal faulted⟩
  · exact ⟨State.writeAt_of_faulted faulted .., State.issueRead_of_faulted faulted ..⟩
  · exact ⟨State.writeAt_of_normal normal .., State.issueRead_of_normal normal ..⟩
  · exact fun none' => if_pos none'
  · exact fun area => if_neg area

/-- Settles O60: what each command puts out, and the summary by its definition. -/
theorem messageIsSentWhenSummaryRises : Obligations.MessageIsSentWhenSummaryRises := by
  refine ⟨fun c s t e => ?_, fun b => by simp [BusInterface.summary]⟩
  obtain ⟨events, log, messages, _⟩ := (exec_busStep e).puts_out
  exact ⟨events, log, messages⟩

end Sys2Proof.Machine
end

section
/-! SUPPORT. The counter snapshot: the one place of each counter, and the request with its copies, by value (R159, R172,
R173, R175). -/

namespace Sys2Proof.Machine

/-! ### A block of counters -/

/-- The rows of a block stand in their order, each once. -/
structure RowsAt {β : Type} (rows : List β) (row : β → Nat) : Prop where
  nodup : rows.Nodup
  at_row : ∀ b : β, rows[row b]? = some b

section
variable {α β : Type} {pick : Nat → Option α} {rows : List β} {name : α → β → Counter}

/-- The counters of one port, channel or lane stand next to each other in row order. -/
theorem blockCounter_at {n i : Nat} {a : α} (picked : pick n = some a) (h : i < rows.length) :
    blockCounter pick rows name (rows.length * n + i) = rows[i]?.map (name a) := by
  rw [blockCounter, Nat.mul_add_div (by omega), Nat.div_eq_of_lt h, Nat.mul_add_mod, Nat.mod_eq_of_lt h, Nat.add_zero,
    picked, List.getElem?_eq_getElem h]
  rfl

/-- The same, of the places from a base on that a block takes in the buffer. -/
theorem map_counterAt_of_block {base n count : Nat} {a : α} (picked : pick n = some a) (low : n < count)
    (block : ∀ {i : Nat}, i < rows.length * count → counterAt (base + i) = blockCounter pick rows name i) :
    (List.range rows.length).map (fun i => counterAt (base + rows.length * n + i)) =
      rows.map fun b => some (name a b) := by
  refine List.ext_getElem (by simp) fun i h _ => ?_
  have inside : i < rows.length := by simpa using h
  have within : rows.length * n + i < rows.length * count :=
    calc rows.length * n + i < rows.length * (n + 1) := by rw [Nat.mul_succ]; omega
      _ ≤ rows.length * count := Nat.mul_le_mul_left _ low
  simp [Nat.add_assoc, block within, blockCounter_at picked inside, inside]

variable {num : α → Nat} {row : β → Nat}

theorem blockCounter_place (r : RowsAt rows row) {a : α} (picked : pick (num a) = some a) (b : β) :
    blockCounter pick rows name (rows.length * num a + row b) = some (name a b) := by
  obtain ⟨inside, _⟩ := List.getElem?_eq_some_iff.mp (r.at_row b)
  rw [blockCounter_at picked inside, r.at_row b]
  rfl

/-- A counter that a block holds stands at its own place. -/
theorem place_of_blockCounter (r : RowsAt rows row) (numbered : ∀ {n : Nat} {a : α}, pick n = some a → n = num a)
    {i : Nat} {c : Counter} (h : blockCounter pick rows name i = some c) :
    ∃ a b, c = name a b ∧ i = rows.length * num a + row b := by
  unfold blockCounter at h
  split at h
  · rename_i a b picked got
    obtain ⟨inside, _⟩ := List.getElem?_eq_some_iff.mp got
    have same : i % rows.length = row b := (List.getElem?_inj inside r.nodup).mp (got.trans (r.at_row b).symm)
    exact ⟨a, b, (Option.some.inj h).symm, by rw [← numbered picked, ← same, Nat.div_add_mod]⟩
  · cases h
  · cases h

end

theorem portRows_at : RowsAt portRows fun c => c.row := ⟨by decide, fun c => by cases c <;> rfl⟩
theorem classifierPortRows_at : RowsAt classifierPortRows fun c => c.row := ⟨by decide, fun c => by cases c <;> rfl⟩
theorem timebaseRows_at : RowsAt timebaseRows fun c => c.row := ⟨by decide, fun c => by cases c <;> rfl⟩
theorem disciplineRows_at : RowsAt disciplineRows fun c => c.row := ⟨by decide, fun c => by cases c <;> rfl⟩
theorem classifierChannelRows_at : RowsAt classifierChannelRows fun c => c.row :=
  ⟨by decide, fun c => by cases c <;> rfl⟩
theorem tableRows_at : RowsAt tableRows fun c => c.row := ⟨by decide, fun c => by cases c <;> rfl⟩
theorem expiryRows_at : RowsAt expiryRows fun c => c.row := ⟨by decide, fun c => by cases c <;> rfl⟩
theorem laneRows_at : RowsAt laneRows fun c => c.row := ⟨by decide, fun c => by cases c <;> rfl⟩

theorem val_of_portNo? {n : Nat} {k : PortNo} (h : portNo? n = some k) : n = k := by
  rw [portNo?, dif_pos (lt_of_portNo? h)] at h
  rw [← Option.some.inj h]
theorem val_of_channelNo? {n : Nat} {ch : ChannelNo} (h : channelNo? n = some ch) : n = ch := by
  rw [channelNo?, dif_pos (lt_of_channelNo? h)] at h
  rw [← Option.some.inj h]
theorem val_of_laneNo? {n : Nat} {l : LaneNo} (h : laneNo? n = some l) : n = l := by
  rw [laneNo?, dif_pos (lt_of_laneNo? h)] at h
  rw [← Option.some.inj h]

/-! ### The blocks of the buffer -/

section
variable {i : Nat}

theorem counterAt_ports (h : i < 72) : counterAt i = blockCounter portNo? portRows .port i := if_pos h
theorem counterAt_classifierPorts (h : i < 24) :
    counterAt (72 + i) = blockCounter portNo? classifierPortRows .classifierPort i := by
  rw [counterAt, if_neg (by omega), if_pos (by omega), Nat.add_sub_cancel_left]
theorem counterAt_timebase (h : i < 4) : counterAt (96 + i) = timebaseRows[i]?.map .timebase := by
  rw [counterAt, if_neg (by omega), if_neg (by omega), if_pos (by omega), Nat.add_sub_cancel_left]
theorem counterAt_discipline (h : i < 6) : counterAt (100 + i) = disciplineRows[i]?.map .discipline := by
  rw [counterAt, if_neg (by omega), if_neg (by omega), if_neg (by omega), if_pos (by omega), Nat.add_sub_cancel_left]
theorem counterAt_classifierChannels (h : i < 1280) :
    counterAt (106 + i) = blockCounter channelNo? classifierChannelRows .classifierChannel i := by
  rw [counterAt, if_neg (by omega), if_neg (by omega), if_neg (by omega), if_neg (by omega), if_pos (by omega),
    Nat.add_sub_cancel_left]
theorem counterAt_table (h : i < 1280) : counterAt (1386 + i) = blockCounter channelNo? tableRows .table i := by
  rw [counterAt, if_neg (by omega), if_neg (by omega), if_neg (by omega), if_neg (by omega), if_neg (by omega),
    if_pos (by omega), Nat.add_sub_cancel_left]
theorem counterAt_expiry (h : i < 768) : counterAt (2666 + i) = blockCounter channelNo? expiryRows .expiry i := by
  rw [counterAt, if_neg (by omega), if_neg (by omega), if_neg (by omega), if_neg (by omega), if_neg (by omega),
    if_neg (by omega), if_pos (by omega), Nat.add_sub_cancel_left]
theorem counterAt_poolFull : counterAt 3434 = some .poolFull := rfl
theorem counterAt_lanes : counterAt (3435 + i) = blockCounter laneNo? laneRows .lane i := by
  rw [counterAt, if_neg (by omega), if_neg (by omega), if_neg (by omega), if_neg (by omega), if_neg (by omega),
    if_neg (by omega), if_neg (by omega), if_neg (by omega), Nat.add_sub_cancel_left]

end

/-! ### The place of a counter -/

/-- The place of a counter in the buffer, counting counters from 0 (R175). -/
def Counter.place : Counter → Nat
  | .port k c => 9 * k + c.row
  | .classifierPort k c => 72 + (3 * k + c.row)
  | .timebase c => 96 + c.row
  | .discipline c => 100 + c.row
  | .classifierChannel ch c => 106 + (5 * ch + c.row)
  | .table ch c => 1386 + (5 * ch + c.row)
  | .expiry ch c => 2666 + (3 * ch + c.row)
  | .poolFull => 3434
  | .lane l c => 3435 + (8 * l + c.row)

theorem Counter.place_lt (name : Counter) : name.place < 3467 := by
  cases name <;> simp only [Counter.place] <;> omega

theorem counterAt_place (name : Counter) : counterAt name.place = some name := by
  cases name with
  | port k c =>
    exact (counterAt_ports (by simp only [Counter.place]; omega)).trans (blockCounter_place portRows_at (portNo?_val k) c)
  | classifierPort k c =>
    exact (counterAt_classifierPorts (by omega)).trans (blockCounter_place classifierPortRows_at (portNo?_val k) c)
  | timebase c => exact (counterAt_timebase c.row.isLt).trans (by rw [timebaseRows_at.at_row]; rfl)
  | discipline c => exact (counterAt_discipline c.row.isLt).trans (by rw [disciplineRows_at.at_row]; rfl)
  | classifierChannel ch c =>
    exact (counterAt_classifierChannels (by omega)).trans
      (blockCounter_place classifierChannelRows_at (channelNo?_val ch) c)
  | table ch c => exact (counterAt_table (by omega)).trans (blockCounter_place tableRows_at (channelNo?_val ch) c)
  | expiry ch c => exact (counterAt_expiry (by omega)).trans (blockCounter_place expiryRows_at (channelNo?_val ch) c)
  | poolFull => exact counterAt_poolFull
  | lane l c => exact counterAt_lanes.trans (blockCounter_place laneRows_at (laneNo?_val l) c)

/-- The rows of the Timebase and of the discipline, which are kept once. -/
theorem place_of_rows {β : Type} {rows : List β} {row : β → Nat} {name : β → Counter} (r : RowsAt rows row) {i : Nat}
    {c : Counter} (h : rows[i]?.map name = some c) : ∃ b, c = name b ∧ i = row b := by
  obtain ⟨b, got, rfl⟩ := Option.map_eq_some_iff.mp h
  obtain ⟨inside, _⟩ := List.getElem?_eq_some_iff.mp got
  exact ⟨b, rfl, (List.getElem?_inj inside r.nodup).mp (got.trans (r.at_row b).symm)⟩

theorem place_of_counterAt {i : Nat} {name : Counter} (h : counterAt i = some name) : i = name.place := by
  unfold counterAt at h
  split at h
  · obtain ⟨k, c, rfl, e⟩ := place_of_blockCounter portRows_at val_of_portNo? h
    exact e
  split at h
  · obtain ⟨k, c, rfl, e⟩ := place_of_blockCounter classifierPortRows_at val_of_portNo? h
    simp only [Counter.place, show classifierPortRows.length = 3 from rfl] at e ⊢
    omega
  split at h
  · obtain ⟨c, rfl, e⟩ := place_of_rows timebaseRows_at h
    simp only [Counter.place]
    omega
  split at h
  · obtain ⟨c, rfl, e⟩ := place_of_rows disciplineRows_at h
    simp only [Counter.place]
    omega
  split at h
  · obtain ⟨ch, c, rfl, e⟩ := place_of_blockCounter classifierChannelRows_at val_of_channelNo? h
    simp only [Counter.place, show classifierChannelRows.length = 5 from rfl] at e ⊢
    omega
  split at h
  · obtain ⟨ch, c, rfl, e⟩ := place_of_blockCounter tableRows_at val_of_channelNo? h
    simp only [Counter.place, show tableRows.length = 5 from rfl] at e ⊢
    omega
  split at h
  · obtain ⟨ch, c, rfl, e⟩ := place_of_blockCounter expiryRows_at val_of_channelNo? h
    simp only [Counter.place, show expiryRows.length = 3 from rfl] at e ⊢
    omega
  split at h
  · obtain rfl := Option.some.inj h
    assumption
  · obtain ⟨l, c, rfl, e⟩ := place_of_blockCounter laneRows_at val_of_laneNo? h
    simp only [Counter.place, show laneRows.length = 8 from rfl] at e ⊢
    omega

/-! ### The request -/

section
variable {s : State} {slot : List Byte}

theorem carrySnapshot_refused (h : slotField slot 8 8 = 0 ∨ slotField slot 8 8 % 8 ≠ 0 ∨ 1 < slotField slot 16 1)
    (s : State) : carrySnapshot slot s = s.answerWith .badParam [] := by
  unfold carrySnapshot
  split
  · rename_i code
    have two := le_of_twoValued code
    exact if_pos (by omega)
  · rfl

theorem carrySnapshot_taken (h : ¬(slotField slot 8 8 = 0 ∨ slotField slot 8 8 % 8 ≠ 0 ∨ 1 < slotField slot 16 1))
    (normal : s.bus.faulted = false) :
    carrySnapshot slot s =
      { s with bus :=
        { s.bus with
          snapshot := some { buffer := BitVec.ofNat 64 (slotField slot 8 8), clear := slotField slot 16 1 = 1, next := 0
                             reading := s.reading } } } := by
  have aligned : ¬(slotField slot 8 8 = 0 ∨ slotField slot 8 8 % 8 ≠ 0) := by omega
  simp only [carrySnapshot, switch?_of_le (show slotField slot 16 1 ≤ 1 by omega), if_neg aligned, normal]
  rfl

/-! ### The copies -/

theorem execCounterCopy_idle (h : s.bus.snapshot = none) : exec .counterCopy s = .next s := by
  show execCounterCopy s = .next s
  simp only [execCounterCopy, h]

theorem execCounterCopy_eq {c : SnapshotCopy} {name : Counter} (copying : s.bus.snapshot = some c)
    (next : counterAt c.next = some name) : exec .counterCopy s = .next (copyCounter c name s) := by
  show execCounterCopy s = _
  simp only [execCounterCopy, copying, next]

/-- The result of a copy (R159, R172). -/
theorem resultOf_snapshot (sec ns epoch quality count : Nat) :
    resultOf [(48, leBytes 4 sec), (52, leBytes 4 ns), (56, leBytes 2 epoch), (58, leBytes 1 quality),
        (60, leBytes 4 count)] =
      leBytes 4 sec ++ leBytes 4 ns ++ leBytes 2 epoch ++ leBytes 1 quality ++ zeros 1 ++ leBytes 4 count := by
  rw [resultOf_eq _ (by simp [Ordered])]
  simp [filled]

theorem afterCopy_goes_on {c : SnapshotCopy} (h : c.next + 1 < 3467) (s : State) :
    afterCopy c s = { s with bus := { s.bus with snapshot := some { c with next := c.next + 1 } } } := if_pos h

theorem afterCopy_ends {c : SnapshotCopy} (h : c.next + 1 = 3467) (busy : s.engine.state = .busy)
    (handed : s.engine.handed = none) :
    afterCopy c s = ({ s with bus := { s.bus with snapshot := none } } : State).returns .ok
      (leBytes 4 c.reading.time.sec.toNat ++ leBytes 4 c.reading.time.ns ++ leBytes 2 c.reading.epoch.toNat
        ++ leBytes 1 c.reading.quality.code ++ zeros 1 ++ leBytes 4 3467) := by
  rw [afterCopy, if_neg (by rw [h]; decide), ← resultOf_snapshot]
  exact State.answerWith_eq _ _ _ busy handed

end

/-- Settles O46: the request, one copy, and the bijection between places and counters block by block. -/
theorem counterSnapshotCopiesEveryCounter : Obligations.CounterSnapshotCopiesEveryCounter := by
  intro slot s buffer clear copy bad
  refine ⟨fun held refused => ?_, fun held taken normal => ?_, execCounterCopy_idle,
    fun c name copying next normal => ⟨fun more => ?_, fun last busy handed => ?_⟩,
    fun name => ⟨name.place, ⟨name.place_lt, counterAt_place name⟩, fun i h => place_of_counterAt h.2⟩,
    fun k => ?_,
    fun k => map_counterAt_of_block (rows := classifierPortRows) (portNo?_val k) k.isLt counterAt_classifierPorts,
    rfl, rfl,
    fun ch => map_counterAt_of_block (rows := classifierChannelRows) (channelNo?_val ch) ch.isLt
      counterAt_classifierChannels,
    fun ch => map_counterAt_of_block (rows := tableRows) (channelNo?_val ch) ch.isLt counterAt_table,
    fun ch => map_counterAt_of_block (rows := expiryRows) (channelNo?_val ch) ch.isLt counterAt_expiry,
    rfl,
    fun l => map_counterAt_of_block (rows := laneRows) (laneNo?_val l) l.isLt fun _ => counterAt_lanes,
    fun cs name c v => ?_, rfl⟩
  · show Host.Outcome.next (s.carryOut 0x40 carrySnapshot) = _
    rw [held.carryOut, carrySnapshot_refused refused, s.begun_answerWith _ _ held.busy, resultOf_nil]
  · show Host.Outcome.next (s.carryOut 0x40 carrySnapshot) = _
    rw [held.carryOut]
    exact congrArg _ (carrySnapshot_taken (s := s.begun) taken normal)
  · rw [execCounterCopy_eq copying next]
    exact congrArg _ (afterCopy_goes_on more _)
  · rw [execCounterCopy_eq copying next]
    refine congrArg _ (afterCopy_ends last ?_ ?_)
    all_goals
      rw [State.writeAt_engine]
      split <;> assumption
  · have ports {i : Nat} (h : i < 72) : counterAt (0 + i) = blockCounter portNo? portRows .port i := by
      rw [Nat.zero_add, counterAt_ports h]
    have block := map_counterAt_of_block (rows := portRows) (portNo?_val k) k.isLt ports
    simp only [Nat.zero_add] at block
    exact block
  · split
    · subst c
      exact cs.get_put_self name v
    · rename_i other
      exact cs.get_put_of_ne v (Ne.symm other)

end Sys2Proof.Machine
end

section
/-! SUPPORT. The Status Block refresh, by value (R17, R36, R54, R148, R160, R174). -/

namespace Sys2Proof.Machine

/-! ### The fields -/

/-- Each field begins where the one before it ends (R174). -/
theorem statusFields_isChain (s : State) (refresh : BitVec 32) :
    (statusFields s refresh).IsChain fun f g => g.1 = f.1 + f.2.length := by
  simp [statusFields, statusTime, statusLane, statusPort, List.finRange]

/-! ### The writes -/

/-- With a Control Area and the bus NORMAL, fields written one after another stand in the log in their order (R151,
R160). -/
theorem foldl_writeArea_eq {s : State} (normal : s.bus.faulted = false) (area : s.bus.areaBase ≠ 0)
    (fields : List (Nat × List Byte)) :
    fields.foldl (fun t f => t.writeArea f.1 f.2) s = s.puts (fields.map fun f =>
      .write [{ address := s.bus.areaBase + BitVec.ofNat 64 f.1, bytes := f.2 }]) := by
  induction fields generalizing s with
  | nil => simp
  | cons f fs ih =>
    rw [List.foldl_cons, State.writeArea, if_neg area, State.writeAt_of_normal normal,
      ih (s := s.puts _) normal area]
    simp

theorem refreshStatus_eq {s : State} (normal : s.bus.faulted = false) (area : s.bus.areaBase ≠ 0) :
    refreshStatus s =
      { s with bus :=
        { s.bus with
          refreshCount := s.bus.refreshCount + 1, slowRead := false
          log := s.bus.log ++ (statusFields s (s.bus.refreshCount + 1)).map fun f =>
            .write [{ address := s.bus.areaBase + BitVec.ofNat 64 f.1, bytes := f.2 }] } } := by
  rw [refreshStatus, foldl_writeArea_eq normal area]
  rfl

/-- Settles O45: the fields by value, one part of the block at a time, and the writes that put them out. -/
theorem statusRefreshWritesTheBlock : Obligations.StatusRefreshWritesTheBlock := by
  intro s b d time due n yes quality engine unit lane port fields put
  have flag (x : Bool) : leBytes 1 (boolCode x) = yes x := by cases x <;> rfl
  have time_eq : statusTime s = unit := by
    have quality_eq : leBytes 1 d.state.code = quality := by simp only [quality]; cases d.state <;> rfl
    have engine_eq : leBytes 1 s.engine.state.code = engine := by simp only [engine]; cases s.engine.state <;> rfl
    have polarity : leBytes 1 (edgeCode d.polarity) = yes (decide (d.polarity = .falling)) := by
      cases d.polarity <;> rfl
    have lamp : leBytes 1 d.lampPolarity.code = yes (decide (d.lampPolarity = .activeLow)) := by
      cases d.lampPolarity <;> rfl
    simp only [statusTime, unit, ← quality_eq, ← engine_eq, ← polarity, ← lamp, ← flag]
    cases d.lane <;> rfl
  have lane_eq (l : LaneNo) : statusLane s l = lane l := by
    simp only [statusLane, lane]
    cases (s.lane l).state <;> rfl
  have port_eq (k : PortNo) : statusPort s k = port k := by
    simp only [statusPort, port, Port.reportedLink]
    cases (s.port k).enabled <;> cases (s.port k).link <;> cases (s.port k).health <;> rfl
  have fields_eq : statusFields s n = fields := by
    simp [statusFields, fields, time_eq, lane_eq, port_eq, List.finRange]
  refine ⟨fun early => congrArg _ (if_neg early), fun now => ?_, fields_eq ▸ statusFields_isChain s n⟩
  obtain ⟨_, _, area, normal⟩ := id now
  refine (congrArg Host.Outcome.next (if_pos now)).trans ?_
  rw [refreshStatus_eq (s := { s with bus := { s.bus with refreshTaken := true } }) normal area, ← fields_eq]
  rfl

end Sys2Proof.Machine
end

section
/-! SUPPORT. The Request Engine, by value: scans, the slots that they pass over and take, and the three writes of a
completion (R139, R151, R155 to R158, R161). -/

namespace Sys2Proof.Machine

/-! ### Codes -/

/-- The sixteen codes of the table (R157). -/
theorem ownerOf_ne_none_iff (code : Nat) : ownerOf code ≠ none ↔
    code ∈ [0x01, 0x02, 0x03, 0x04, 0x10, 0x11, 0x20, 0x21, 0x22, 0x23, 0x24, 0x25, 0x30, 0x31, 0x32, 0x40] := by
  simp only [List.mem_cons, List.not_mem_nil, or_false]
  constructor
  · intro owned
    by_contra other
    simp only [not_or] at other
    exact owned (by simp [ownerOf, other])
  · rintro (h | h | h | h | h | h | h | h | h | h | h | h | h | h | h | h) <;> rw [h] <;> decide

theorem knownCode_eq_true_iff (slot : List Byte) : knownCode slot = true ↔ ownerOf (slotCode slot) ≠ none := by
  rw [knownCode, Option.isSome_iff_ne_none]

/-! ### Scans -/

section
variable {s : State}

theorem beginScan_ready (h : s.engine.state = .idle ∧ s.bus.areaBase ≠ 0 ∧ s.bus.faulted = false ∧ s.engine.scan = none) :
    beginScan s = readSlotState { slot := s.engine.lastSlot + 1, left := 8 } s := if_pos h

theorem beginScan_idle
    (h : ¬(s.engine.state = .idle ∧ s.bus.areaBase ≠ 0 ∧ s.bus.faulted = false ∧ s.engine.scan = none)) :
    beginScan s = s := if_neg h

/-- The read of a slot's state byte joins the outstanding reads (R156). -/
theorem readSlotState_of_normal (normal : s.bus.faulted = false) (scan : Scan) :
    readSlotState scan s =
      { s with
        engine := { s.engine with scan := some scan }
        bus :=
          { s.bus with
            reads := s.bus.reads ++ [{ tag := s.bus.nextTag, purpose := .slotState, address := s.slotAddress scan.slot
                                       length := 1, issued := s.count, wanted := true }]
            nextTag := s.bus.nextTag + 1
            log := s.bus.log ++ [.read s.bus.nextTag (s.slotAddress scan.slot) 1] } } :=
  State.issueRead_of_normal (s := { s with engine := { s.engine with scan := some scan } }) normal ..

theorem reread_again {l : LaneNo} {a : Address} (starved : (s.lane l).state = .starved)
    (idle : ∀ x ∈ s.bus.reads, x.purpose ≠ .ownerWord l) (page : (s.lane l).pages[(s.lane l).nextPage]? = some a) :
    reread l s = (s.setLane l { s.lane l with rereadAt := none }).issueRead (.ownerWord l) a 4 := by
  rw [reread, if_pos ⟨starved, (s.ownerReadOut_eq_false_iff l).mpr idle⟩]
  simp only [readOwner, Lane.nextAddress, page]

theorem reread_none {l : LaneNo}
    (h : ¬((s.lane l).state = .starved ∧ ∀ x ∈ s.bus.reads, x.purpose ≠ .ownerWord l)) : reread l s = s := by
  rw [← s.ownerReadOut_eq_false_iff l] at h
  exact if_neg h

theorem passSlot_eq (scan : Scan) (s : State) :
    passSlot scan s =
      if scan.left ≤ 1 then { s with engine := { s.engine with scan := none } }
      else ({ s with engine := { s.engine with scan := some { slot := scan.slot + 1, left := scan.left - 1 } } } : State)
        |>.issueRead .slotState (s.slotAddress (scan.slot + 1)) 1 := rfl

theorem takeSlot_eq (scan : Scan) (slot : List Byte) (s : State) :
    takeSlot scan slot s =
      { s.writeAt (s.slotAddress scan.slot) [2] with
        engine :=
          { s.engine with
            state := .busy, scan := none, lastSlot := scan.slot, copy := some slot, answer := none
            handed := if ownerOf (slotCode slot) ≠ none then some slot else none } } := by
  simp only [takeSlot, Option.isSome_iff_ne_none, State.writeAt_engine]
  rfl

/-- The lanes in their order, L0 first (R139, log 23). -/
theorem foldl_lanes (f : State → LaneNo → State) (s : State) :
    (List.finRange 4).foldl f s = f (f (f (f s 0) 1) 2) 3 := rfl

theorem execNudge_eq (s : State) : exec .nudge s = .next (reread 3 (reread 2 (reread 1 (reread 0 (beginScan s))))) := by
  show execNudge s = _
  rw [execNudge, foldl_lanes]

/-! ### Completed slot reads -/

theorem execSlotReadDone_eq {tag : Nat} {bytes : List Byte} {r : ReadOp} (found : s.readOp tag = some r)
    (slot : r.purpose = .slotState ∨ r.purpose = .slotWhole) (timely : (s.count - r.issued).toNat ≤ 4000000)
    (whole : bytes.length = r.length) : exec (.slotReadDone tag bytes) s = .next (slotReadDone r bytes s) := by
  have late : s.readLate r = false := decide_eq_false (Nat.not_lt.mpr timely)
  show execSlotReadDone tag bytes s = _
  simp only [execSlotReadDone, found]
  exact congrArg _ (if_pos ⟨slot, late, whole⟩)

theorem execSlotReadDone_none {tag : Nat} {bytes : List Byte}
    (h : ∀ r : ReadOp, s.readOp tag = some r →
      4000000 < (s.count - r.issued).toNat ∨ r.purpose ≠ .slotState ∧ r.purpose ≠ .slotWhole
        ∨ bytes.length ≠ r.length) : exec (.slotReadDone tag bytes) s = .next s := by
  show execSlotReadDone tag bytes s = _
  unfold execSlotReadDone
  split
  · rename_i r found
    refine congrArg _ (if_neg ?_)
    rintro ⟨slot, timely, whole⟩
    have timely : ¬4000000 < (s.count - r.issued).toNat := of_decide_eq_false timely
    rcases h r found with late | ⟨state, whole'⟩ | other
    · exact timely late
    · exact slot.elim state whole'
    · exact other whole
  · rfl

variable {r : ReadOp} {bytes : List Byte}

theorem slotReadDone_ended (h : r.wanted = false ∨ s.engine.scan = none) :
    slotReadDone r bytes s = s.dropRead r.tag := by
  unfold slotReadDone
  split
  · rename_i wanted scanning
    simp [wanted, scanning] at h
  · rfl
  · rfl

theorem slotReadDone_state {scan : Scan} (wanted : r.wanted = true) (scanning : s.engine.scan = some scan)
    (purpose : r.purpose = .slotState) :
    slotReadDone r bytes s = slotStateRead scan bytes ((s.dropRead r.tag).noteAge r) := by
  simp [slotReadDone, wanted, scanning, purpose]

theorem slotReadDone_whole {scan : Scan} (wanted : r.wanted = true) (scanning : s.engine.scan = some scan)
    (purpose : r.purpose = .slotWhole) :
    slotReadDone r bytes s = slotWholeRead scan bytes ((s.dropRead r.tag).noteAge r) := by
  simp [slotReadDone, wanted, scanning, purpose]

/-- A state byte spells POSTED only as 1 (R171). -/
theorem leNat_ne_one_of_byte (one : bytes.length = 1) (h : ∀ b : Byte, bytes = [b] → b ≠ 1) : leNat bytes ≠ 1 := by
  obtain ⟨b, rfl⟩ := List.length_eq_one_iff.mp one
  intro posted
  refine h b rfl (BitVec.eq_of_toNat_eq ?_)
  simpa [leNat] using posted

end

/-- Settles O43: each command and each completion of a slot read, by the lemmas above. -/
theorem scanFindsAPostedSlot : Obligations.ScanFindsAPostedSlot := by
  refine ⟨fun s => ⟨fun ready => ?_, beginScan_idle, fun ticks => congrArg _ (if_pos ticks),
      fun still => congrArg _ (if_neg still), execNudge_eq s,
      fun l => ⟨fun a h page => reread_again h.1 h.2 page, reread_none⟩⟩,
    fun tag bytes r s found timely whole => ⟨fun ended slot => ?_, fun scan wanted scanning =>
      ⟨fun state posted => ?_, fun state other one => ?_, fun all other => ?_, fun all posted => ?_⟩⟩,
    fun tag bytes s h => execSlotReadDone_none h, ownerOf_ne_none_iff⟩
  · obtain ⟨_, _, normal, _⟩ := id ready
    rw [beginScan_ready ready, readSlotState_of_normal normal]
    rfl
  · rw [execSlotReadDone_eq found slot timely whole, slotReadDone_ended ended]
  · rw [execSlotReadDone_eq found (.inl state) timely whole, slotReadDone_state wanted scanning state]
    exact congrArg _ (if_pos (by rw [posted]; rfl))
  · rw [execSlotReadDone_eq found (.inl state) timely whole, slotReadDone_state wanted scanning state]
    exact congrArg _ ((if_neg (leNat_ne_one_of_byte one other)).trans (passSlot_eq ..))
  · rw [execSlotReadDone_eq found (.inr all) timely whole, slotReadDone_whole wanted scanning all]
    exact congrArg _ ((if_neg other).trans (passSlot_eq ..))
  · rw [execSlotReadDone_eq found (.inr all) timely whole, slotReadDone_whole wanted scanning all]
    exact congrArg _ ((if_pos posted).trans (takeSlot_eq ..))

/-! ### Completion -/

/-- On a NORMAL bus the three writes of a completion join the log in their order (R157, log 27, log 41). -/
theorem completeRequest_of_normal {s : State} (normal : s.bus.faulted = false) (slot : List Byte) (a : Answer) :
    completeRequest slot a s =
      let base := s.slotAddress s.engine.lastSlot
      let t := s.puts
        [.write [{ address := base + 1, bytes := fieldAt slot 1 1 },
                 { address := base + 3, bytes := fieldAt slot 3 45 ++ a.result }],
         .write [{ address := base + 2, bytes := leBytes 1 a.outcome.code }],
         .write [{ address := base, bytes := leBytes 1 3 }]]
      beginScan
        { t.setCause .request with
          engine := { s.engine with state := .idle, copy := none, handed := none, answer := none
                                    lastEnd := some a.outcome } } := by
  dsimp only [completeRequest]
  rw [State.issueWrite_of_normal normal, State.writeAt_of_normal (s := s.puts _) normal, State.puts_puts,
    State.writeAt_of_normal (s := s.puts _) normal, State.puts_puts]
  rfl

section
variable {s : State} {slot : List Byte}

theorem execRequestComplete_not_busy (h : s.engine.state ≠ .busy) : exec .requestComplete s = .next s := by
  show execRequestComplete s = _
  unfold execRequestComplete
  split
  · exact absurd ‹_› h
  · rfl

theorem execBadRequest_not_busy (h : s.engine.state ≠ .busy) : exec .badRequest s = .next s := by
  show execBadRequest s = _
  unfold execBadRequest
  split
  · exact absurd ‹_› h
  · rfl

variable (busy : s.engine.state = .busy) (copy : s.engine.copy = some slot)
include busy copy

theorem execRequestComplete_answered {a : Answer} (answer : s.engine.answer = some a) :
    exec .requestComplete s = .next (completeRequest slot a s) := by
  show execRequestComplete s = _
  simp only [execRequestComplete, busy, copy, answer]

theorem execRequestComplete_waiting (answer : s.engine.answer = none) : exec .requestComplete s = .next s := by
  show execRequestComplete s = _
  simp only [execRequestComplete, busy, copy, answer]

theorem execBadRequest_known (known : knownCode slot = true) : exec .badRequest s = .next s := by
  show execBadRequest s = _
  simp only [execBadRequest, busy, copy, known, if_true]

theorem execBadRequest_unknown (unknown : knownCode slot = false) :
    exec .badRequest s = .next (completeRequest slot { outcome := .badRequest, result := zeros 16 } s) := by
  show execBadRequest s = _
  simp [execBadRequest, busy, copy, unknown]

end

/-! ### What an owner was handed -/

/-- An owner acts on a slot of its own code only, and leaves an engine that no longer waits alone (R157, R162, log 30). -/
theorem exec_request {c : Instr} {code : Nat} {act : List Byte → State → State}
    (arm : ∀ s, exec c s = .next (s.carryOut code act)) (serves : ∀ slot u, State.Serves u (act slot u)) (s : State) :
    ((∀ slot : List Byte, s.engine.handed = some slot → slotCode slot ≠ code) → exec c s = .next s)
      ∧ (∀ slot : List Byte, s.engine.handed = some slot → slotCode slot = code → s.engine.state ≠ .busy →
          ∃ t : State, exec c s = .next t ∧ t.engine = { s.engine with handed := none }) := by
  refine ⟨fun other => ?_, fun slot handed own free => ⟨act slot s.begun, ?_, (serves slot s.begun).engine free⟩⟩
  · rw [arm, State.carryOut_of_not_handed act other]
  · rw [arm, State.carryOut_of_handed act handed own]

/-- Settles O42: completion by value, and each owner by what it was handed. -/
theorem requestCompletesInThreeWrites : Obligations.RequestCompletesInThreeWrites := by
  refine ⟨fun s => ⟨fun free => ⟨execRequestComplete_not_busy free, execBadRequest_not_busy free⟩,
    fun slot busy copy normal => ⟨fun a answer => ?_, execRequestComplete_waiting busy copy, fun other => ?_,
      fun known => ?_⟩⟩, rfl, fun _ => rfl, ?_⟩
  · rw [execRequestComplete_answered busy copy answer, completeRequest_of_normal normal]
    rfl
  · rw [← ownerOf_ne_none_iff, ← knownCode_eq_true_iff, Bool.not_eq_true] at other
    rw [execBadRequest_unknown busy copy other, completeRequest_of_normal normal]
    rfl
  · rw [← ownerOf_ne_none_iff, ← knownCode_eq_true_iff] at known
    exact execBadRequest_known busy copy known
  · intro requests request listed
    simp only [requests, List.mem_cons, List.not_mem_nil, or_false] at listed
    obtain rfl | rfl | rfl | rfl | rfl | rfl | rfl | rfl | rfl | rfl | rfl | rfl | rfl | rfl | rfl | rfl := listed
    · exact exec_request (fun _ => rfl) fun slot u => (State.Serves.refl u).carrySetTime slot
    · exact exec_request (fun _ => rfl) fun slot u => (State.Serves.refl u).carryAdjustTime slot
    · exact exec_request (fun _ => rfl) fun slot u => (State.Serves.refl u).carrySetFrequency slot
    · exact exec_request (fun _ => rfl) fun slot u => (State.Serves.refl u).carryDisciplineSet slot
    · exact exec_request (fun _ => rfl) fun slot u => (State.Serves.refl u).carryPortSet slot
    · exact exec_request (fun _ => rfl) fun slot u => (State.Serves.refl u).carryPortReadmit slot
    · exact exec_request (fun _ => rfl) fun slot u => (State.Serves.refl u).carryMapAdd slot
    · exact exec_request (fun _ => rfl) fun slot u => (State.Serves.refl u).carryMapRemove slot
    · exact exec_request (fun _ => rfl) fun slot u => (State.Serves.refl u).carryPatternLoad slot
    · exact exec_request (fun _ => rfl) fun slot u => (State.Serves.refl u).carryChannelSet slot
    · exact exec_request (fun _ => rfl) fun slot u => (State.Serves.refl u).carryChannelStart slot
    · exact exec_request (fun _ => rfl) fun slot u => (State.Serves.refl u).carryChannelStop slot
    · exact exec_request (fun _ => rfl) fun slot u => (State.Serves.refl u).carryLaneOpen slot
    · exact exec_request (fun _ => rfl) fun slot u => (State.Serves.refl u).carryLaneClose slot
    · exact exec_request (fun _ => rfl) fun slot u => (State.Serves.refl u).carryPartitionSet slot
    · exact exec_request (fun _ => rfl) fun slot u => (State.Serves.refl u).carrySnapshot slot

end Sys2Proof.Machine
end

section
/-! SUPPORT. The registers of the Bus Interface, by value: AREA_BASE, CONTROL, CAUSE and what each register reads (R150 to
R154, R176). -/

namespace Sys2Proof.Machine

/-! ### AREA_BASE -/

section
variable {s : State}

theorem State.takesArea_iff (s : State) : s.takesArea = true ↔
    s.bus.faulted = false ∧ (∀ l : LaneNo, (s.lane l).state = .closed) ∧ s.engine.state ≠ .busy := by
  simp [State.takesArea, State.lanesClosed, and_assoc]

/-- The engine after a value has been taken, as one record (R151, R156). -/
theorem Engine.withArea_of_free {e : Engine} (free : e.state ≠ .busy) (base : BitVec 64) :
    e.withArea base =
      { e with
        state := if base = 0 then .stopped else .idle
        scan := none
        lastSlot := if base ≠ 0 ∧ e.state = .stopped then 7 else e.lastSlot } := by
  obtain ⟨state, scan, lastSlot, copy, handed, answer, lastEnd⟩ := e
  unfold Engine.withArea
  by_cases none' : base = 0#64
  · simp [none']
  · cases state with
    | stopped => simp [none']
    | idle => simp [none']
    | busy => exact absurd rfl free

theorem ReadPurpose.isSlot_iff (p : ReadPurpose) : p.isSlot = true ↔ p = .slotState ∨ p = .slotWhole := by
  cases p <;> simp [ReadPurpose.isSlot]

theorem presentArea_taken (v : BitVec 64)
    (h : s.bus.faulted = false ∧ (∀ l : LaneNo, (s.lane l).state = .closed) ∧ s.engine.state ≠ .busy) :
    presentArea v s =
      { s with
        bus := { s.bus with
          heldLower := none, areaBase := areaAligned v
          reads := s.bus.reads.map fun r =>
            if r.purpose = .slotState ∨ r.purpose = .slotWhole then { r with wanted := false } else r }
        engine := { s.engine with
          state := if areaAligned v = 0 then .stopped else .idle
          scan := none
          lastSlot := if areaAligned v ≠ 0 ∧ s.engine.state = .stopped then 7 else s.engine.lastSlot } } := by
  obtain ⟨_, _, free⟩ := id h
  rw [← Engine.withArea_of_free free]
  simp only [presentArea, s.takesArea_iff.mpr h, if_true, setArea, State.disownReads, ReadPurpose.isSlot_iff]

theorem presentArea_ignored (v : BitVec 64)
    (h : ¬(s.bus.faulted = false ∧ (∀ l : LaneNo, (s.lane l).state = .closed) ∧ s.engine.state ≠ .busy)) :
    presentArea v s = { s with bus := { s.bus with heldLower := none } } := by
  rw [← s.takesArea_iff] at h
  exact if_neg h

end

/-! ### Halves of a register -/

theorem setWidth_eq_lower (x : BitVec 64) : x.setWidth 32 = x.extractLsb' 0 32 := by
  ext i h
  simp

theorem shiftRight_eq_upper (x : BitVec 64) : (x >>> 32).setWidth 32 = x.extractLsb' 32 32 := by
  ext i h
  simp

/-- A 64-bit register reads as its two halves (R150). -/
theorem upper_append_lower (x : BitVec 64) : (x >>> 32).setWidth 32 ++ x.setWidth 32 = x := by
  refine BitVec.eq_of_getLsbD_eq fun i h => ?_
  rw [BitVec.getLsbD_append]
  split
  · simp [*]
  · simp only [BitVec.getLsbD_setWidth, BitVec.getLsbD_ushiftRight]
    rw [Nat.add_sub_cancel' (by omega), decide_eq_true (by omega : i - 32 < 32), Bool.true_and]

theorem BusInterface.readHalf_none {o : Nat} (h : o ∉ [0x00, 0x08, 0x0C, 0x10, 0x18, 0x20, 0x24]) (b : BusInterface) :
    b.readHalf o = 0 := by
  simp only [List.mem_cons, List.not_mem_nil, or_false, not_or] at h
  simp [BusInterface.readHalf, h]

/-! ### CONTROL -/

/-- CONTROL, bit by bit (R152, R176). -/
theorem BusInterface.control_getLsbD (b : BusInterface) (i : Nat) :
    b.control.getLsbD i = if i < 8 then decide (i = 0) && b.notify else b.enables.getLsbD (i - 8) := by
  have parts : (if b.notify then 1 else 0) + b.enables.toNat * 256 = 2 ^ 8 * b.enables.toNat + b.notify.toNat := by
    cases b.notify <;> simp [Nat.mul_comm, Nat.add_comm]
  have bit : b.notify.toNat < 2 ^ 8 := by cases b.notify <;> decide
  rw [BusInterface.control, parts, BitVec.getLsbD_ofNat, Nat.testBit_two_pow_mul_add _ bit]
  split
  · rw [decide_eq_true (by omega : i < 32), Bool.true_and, Nat.testBit_bool_toNat]
  · rw [BitVec.testBit_toNat]
    by_cases wide : i < 32
    · simp [wide]
    · simp [wide, BitVec.getLsbD_of_ge b.enables (i - 8) (by omega)]

theorem BusInterface.control_unassigned (b : BusInterface) {i : Nat} (first : i ≠ 0) (h : ¬(8 ≤ i ∧ i < 16)) :
    b.control.getLsbD i = false := by
  rw [b.control_getLsbD]
  split
  · simp [first]
  · exact BitVec.getLsbD_of_ge _ _ (by omega)

theorem BusInterface.control_enables (b : BusInterface) : b.control.extractLsb' 8 8 = b.enables := by
  refine BitVec.eq_of_getLsbD_eq fun i h => ?_
  simp [b.control_getLsbD, h]

theorem shiftRight_eq_enables (v : BitVec 32) : (v >>> 8).setWidth 8 = v.extractLsb' 8 8 := by
  ext i h
  simp

/-- CONTROL reads back what is written to the enables (R152). -/
theorem BusInterface.control_of_written (b : BusInterface) (v : BitVec 32) (notify : b.notify = v.getLsbD 0)
    (enables : b.enables = v.extractLsb' 8 8) : b.control = v &&& 0x0000FF01#32 := by
  have mask : ∀ i < 32, (0x0000FF01#32).getLsbD i = (decide (i = 0) || decide (8 ≤ i ∧ i < 16)) := by decide
  refine BitVec.eq_of_getLsbD_eq fun i h => ?_
  rw [b.control_getLsbD, BitVec.getLsbD_and, mask i h, notify, enables, BitVec.getLsbD_extractLsb']
  split
  · by_cases first : i = 0
    · simp [first]
    · simp [first, show ¬8 ≤ i by omega]
  · rw [Nat.add_sub_cancel' (by omega)]
    by_cases inside : i < 16
    · simp [inside, show 8 ≤ i by omega, show i - 8 < 8 by omega]
    · simp [inside, show ¬i - 8 < 8 by omega, show i ≠ 0 by omega]

/-- A write of CONTROL without FRESET changes the enables and adds a message, at most, to the log (R152, R154). -/
theorem setEnables_eq (v : BitVec 32) (s : State) :
    setEnables v s =
      { s with bus :=
        { s.bus with notify := v.getLsbD 0, enables := v.extractLsb' 8 8, log := (setEnables v s).bus.log } } := by
  simp only [setEnables, shiftRight_eq_enables]
  rw [BusInterface.withMessage_eq]

theorem functionReset_control (s : State) : (functionReset s).bus.control = 0 := by
  simp [functionReset, BusInterface.functionReset, BusInterface.reset, BusInterface.control]

/-! ### CAUSE -/

/-- Setting a cause changes CAUSE and adds a message, at most, to the log (R153, R154). -/
theorem State.setCause_eq (s : State) (bit : CauseBit) :
    s.setCause bit =
      { s with bus := { s.bus with cause := (s.setCause bit).bus.cause, log := (s.setCause bit).bus.log } } := by
  simp only [State.setCause]
  rw [BusInterface.withMessage_eq]

theorem State.setCause_getLsbD (s : State) (bit : CauseBit) (i : Nat) :
    (s.setCause bit).bus.cause.getLsbD i = (s.bus.cause.getLsbD i || decide (i = bit.index)) := by
  have low : bit.index < 8 := by
    cases bit with
    | lane l => exact Nat.lt_trans l.isLt (by decide)
    | request | time | port | fault => decide
  have cause : (s.setCause bit).bus.cause = s.bus.cause ||| BitVec.twoPow 8 bit.index := by
    rw [State.setCause, BusInterface.withMessage_eq]
  rw [cause, BitVec.getLsbD_or, BitVec.getLsbD_twoPow]
  simp [low, eq_comm]

theorem State.setCause_log (s : State) (bit : CauseBit) :
    (s.setCause bit).bus.log = s.bus.log ++
      if s.bus.summary = false ∧ (s.setCause bit).bus.summary = true ∧ s.bus.message.sending = true
        then [.message s.bus.message.address s.bus.message.data] else [] := by
  simp only [State.setCause, BusInterface.withMessage_summary]
  exact BusInterface.withMessage_log rfl rfl

/-! ### The message -/

theorem BusInterface.summary_eq_true_iff (b : BusInterface) :
    b.summary = true ↔ b.notify = true ∧ b.cause &&& b.enables ≠ 0 := by simp [BusInterface.summary]

theorem BusInterface.summary_eq_false_iff (b : BusInterface) :
    b.summary = false ↔ ¬(b.notify = true ∧ b.cause &&& b.enables ≠ 0) := by
  rw [← b.summary_eq_true_iff, Bool.not_eq_true]

/-- A log that grows by one event under a condition, read as the two cases of the condition. -/
theorem append_ite_cases {α : Type} {p q : Prop} [Decidable p] {xs ys : List α} {m : α}
    (h : ys = xs ++ if p then [m] else []) (same : q ↔ p) : (q → ys = xs ++ [m]) ∧ (¬q → ys = xs) := by
  refine ⟨fun holds => ?_, fun fails => ?_⟩
  · rw [h, if_pos (same.mp holds)]
  · rw [h, if_neg (same.not.mp fails), List.append_nil]

theorem execSetEnables_freset {v : BitVec 32} (h : v.getLsbD 31 = true) (s : State) :
    exec (.setEnables v) s = .next (functionReset s) :=
  congrArg _ (if_pos (by simpa [BitVec.msb_eq_getLsbD_last] using h))

theorem execSetEnables_plain {v : BitVec 32} (h : v.getLsbD 31 = false) (s : State) :
    exec (.setEnables v) s = .next (setEnables v s) :=
  congrArg _ (if_neg (by simpa [BitVec.msb_eq_getLsbD_last] using h))

/-- Settles O44: AREA_BASE by what a presented value comes to, the registers by their halves and bits, CONTROL and CAUSE by
what a change of the summary sends. -/
theorem registersTakeTheirAccesses : Obligations.RegistersTakeTheirAccesses := by
  refine ⟨fun s => ?_, fun offset value s => ?_, fun v s => ?_, fun bit s => ?_⟩
  · intro takes presented
    have present (v : BitVec 64) : presented v (.next (presentArea v s)) :=
      ⟨fun h => congrArg _ (presentArea_taken v h), fun h => congrArg _ (presentArea_ignored v h)⟩
    refine ⟨present, fun v => rfl, fun v lower held => ?_⟩
    have joined : s.bus.lowerHalf = lower := by
      rcases held with held | ⟨held, rfl⟩ <;> simp [BusInterface.lowerHalf, held]
    rw [← joined]
    exact present _
  · intro b
    exact ⟨rfl, rfl, rfl, rfl, upper_append_lower _, upper_append_lower _, rfl, setWidth_eq_lower _, shiftRight_eq_upper _,
      setWidth_eq_lower _, shiftRight_eq_upper _, rfl, fun i first h => b.control_unassigned first h,
      (b.control_getLsbD 0).trans (by simp), b.control_enables, b.control_unassigned (by decide) (by decide),
      fun o other => b.readHalf_none other⟩
  · intro summary b sends message
    refine ⟨fun plain => ⟨setEnables v s, execSetEnables_plain plain s, ?_, ?_, ?_⟩, fun freset =>
      ⟨execSetEnables_freset freset s, _, execSetEnables_freset freset s, functionReset_control s⟩⟩
    · rw [setEnables_eq]
      exact BusInterface.control_of_written _ v rfl rfl
    · exact setEnables_eq v s
    · refine append_ite_cases (setEnables_log v s) ?_
      rw [BusInterface.summary_eq_false_iff, BusInterface.summary_eq_true_iff, setEnables_eq]
  · intro summary number t sends message
    refine ⟨fun i => ?_, s.setCause_eq bit, append_ite_cases (s.setCause_log bit) ?_⟩
    · rw [show t.bus.cause.getLsbD i = _ from s.setCause_getLsbD bit i]
      cases bit <;> rfl
    · rw [BusInterface.summary_eq_false_iff, BusInterface.summary_eq_true_iff]

end Sys2Proof.Machine
end

section
/-! SUPPORT. The bytes of the records, by value: the fields of each kind at their offsets, and zero bytes where no field
stands (R164 to R169). -/

namespace Sys2Proof.Machine

/-! ### Fields held by a string -/

/-- Each of the fields stands in the string at its offset; as a conjunction, to be taken apart field by field. -/
def Held (bytes : List Byte) : List (Nat × List Byte) → Prop
  | [] => True
  | f :: fs => fieldAt bytes f.1 f.2.length = f.2 ∧ Held bytes fs

theorem held_iff (bytes : List Byte) (fs : List (Nat × List Byte)) :
    Held bytes fs ↔ ∀ f ∈ fs, fieldAt bytes f.1 f.2.length = f.2 := by
  induction fs with
  | nil => simp [Held]
  | cons f fs ih => rw [Held, ih, List.forall_mem_cons]

/-- A string from an offset on, as two stretches that reach its end. -/
theorem drop_eq_fieldAt_append {bs : List Byte} {offset m n : Nat} (size : bs.length ≤ offset + m + n) :
    bs.drop offset = fieldAt bs offset m ++ fieldAt bs (offset + m) n := by
  have tail : fieldAt bs (offset + m) n = (bs.drop offset).drop m := by
    rw [fieldAt, List.drop_drop, List.take_of_length_le (by rw [List.length_drop]; omega)]
  rw [tail, fieldAt, List.take_append_drop]

/-! ### The fields of a record -/

section
variable (r : Record) (serial : BitVec 32)

theorem Record.length_mod_eight : r.length % 8 = 0 := by
  cases r with
  | arrival x => simp only [Record.length, roundUp8]; omega
  | partner | gap | lineMiss | resync | dropped | step | port | time => simp [Record.length]

/-- Fields that are among those of the record stand in its bytes. -/
theorem Record.held_of_subset {fs : List (Nat × List Byte)} (h : fs ⊆ r.allFields serial) :
    Held (r.encode serial) fs := (held_iff ..).mpr fun _ hf => r.fieldAt_encode serial (h hf)

theorem Record.allFields_of_not_dropped (h : r.isDropped = false) :
    r.allFields serial = r.commonFields serial ++ (r.sourceFields ++ r.ownFields) := by
  cases r with
  | dropped x => exact absurd h (by simp [Record.isDropped])
  | arrival | partner | gap | lineMiss | resync | step | port | time => rfl

theorem Record.held_commonFields : Held (r.encode serial) (r.commonFields serial) :=
  r.held_of_subset serial (List.subset_append_left ..)

theorem Record.held_sourceFields (h : r.isDropped = false) : Held (r.encode serial) r.sourceFields :=
  r.held_of_subset serial fun _ hf => by simp [r.allFields_of_not_dropped serial h, hf]

theorem Record.held_ownFields (h : r.isDropped = false) : Held (r.encode serial) r.ownFields :=
  r.held_of_subset serial fun _ hf => by simp [r.allFields_of_not_dropped serial h, hf]

theorem DroppedRecord.held_fields (x : DroppedRecord) : Held ((Record.dropped x).encode serial) x.fields :=
  (Record.dropped x).held_of_subset serial (List.subset_append_right ..)

/-! ### Zero bytes -/

/-- The stretches of a record that no field names, zero bytes each, an ARRIVAL record's padding with them. -/
def Record.blanks : Record → List (Nat × List Byte)
  | .arrival x => [(50, zeros 6), (64 + x.captured.length, zeros (roundUp8 x.captured.length - x.captured.length))]
  | .partner _ => [(40, zeros 8)]
  | .gap _ => [(26, zeros 2)]
  | .lineMiss _ => [(27, zeros 1), (42, zeros 6)]
  | .resync _ => [(28, zeros 4)]
  | .dropped _ => [(13, zeros 1)]
  | .step _ => [(26, zeros 2), (36, zeros 4)]
  | .port _ => [(27, zeros 1), (32, zeros 16)]
  | .time _ => [(27, zeros 1), (44, zeros 4)]

theorem Record.blanks_zero : ∀ b ∈ r.blanks, b.2 = zeros b.2.length := by
  cases r <;> simp [Record.blanks]

/-- A blank lies within the record, apart from all its fields. -/
theorem Record.blanks_apart : ∀ b ∈ r.blanks, b.1 + b.2.length ≤ r.length
    ∧ ∀ f ∈ r.allFields serial, b.1 + b.2.length ≤ f.1 ∨ f.1 + f.2.length ≤ b.1 := by
  cases r with
  | arrival x =>
    have room := le_roundUp8 x.captured.length
    simp only [Record.blanks, Record.length, Record.allFields, Record.commonFields, Record.sourceFields, Record.ownFields,
      List.cons_append, List.nil_append, List.forall_mem_cons, List.not_mem_nil, false_implies, implies_true, and_true,
      leBytes_length, zeros_length]
    omega
  | partner x | gap x | lineMiss x | resync x | dropped x | step x | port x | time x =>
    simp [Record.blanks, Record.length, Record.allFields, Record.commonFields, Record.sourceFields, Record.ownFields,
      DroppedRecord.fields]

theorem Record.held_blanks : Held (r.encode serial) r.blanks := by
  refine (held_iff ..).mpr fun b hb => ?_
  obtain ⟨within, apart⟩ := r.blanks_apart serial b hb
  rw [r.blanks_zero b hb, zeros_length]
  exact fieldAt_layout_gap (r.fits serial) _ _ within apart

/-- The bytes of an ARRIVAL record from 64 on are the captured bytes, padded with zeros (R165). -/
theorem ArrivalRecord.drop_encode (x : ArrivalRecord) : ((Record.arrival x).encode serial).drop 64 =
    x.captured ++ zeros ((Record.arrival x).length - 64 - x.captured.length) := by
  obtain ⟨-, -, -, -, -, -, -, -, captured, -⟩ := (Record.arrival x).held_ownFields serial rfl
  obtain ⟨-, padding, -⟩ := (Record.arrival x).held_blanks serial
  have room := le_roundUp8 x.captured.length
  have rest : (Record.arrival x).length - 64 = roundUp8 x.captured.length := Nat.add_sub_cancel_left ..
  rw [zeros_length] at padding
  rw [rest, drop_eq_fieldAt_append (m := x.captured.length), captured, padding]
  rw [Record.length_encode, Record.length]
  omega

end

/-! ### Codes -/

theorem channelField_eq_elim (c : Option ChannelNo) : channelField c = c.elim 0xFFFF fun n => n.val := by cases c <;> rfl

theorem lineField_eq_elim (l : Option Line) : lineField l = l.elim 0xFF Line.code := by cases l <;> rfl

theorem Line.other_code (l : Line) : l.other.code = 1 - l.code := by cases l <;> rfl

theorem Direction.code_eq_ite (d : Direction) : d.code = if d = .ahead then 0 else 1 := by cases d <;> rfl

theorem linkCode_eq_ite (l : LinkState) : linkCode l = if l = .down then 0 else 1 := by cases l <;> rfl

/-- Eight bytes hold a stamp's number modulo 2^64, so its reduction does not show in them (R5). -/
theorem leBytes_stamp_value (t : Stamp) : leBytes 8 t.value = leBytes 8 (t.n.toNat * 16 + t.p.toNat) := leBytes_mod 8 _

/-! ### The records -/

/-- Settles O50: no two fields of a record overlap, so that each reads back from its layout, and its blanks lie apart from
them all; the codes of the model are those of the statement. -/
theorem recordBytesHoldTheirFields : Obligations.RecordBytesHoldTheirFields := by
  refine ⟨fun r serial => ?_, fun _ _ => ⟨rfl, rfl⟩, fun _ _ _ => ⟨rfl, rfl⟩, fun _ _ _ => ⟨rfl, rfl⟩⟩
  intro bytes at' signed zero bit yes line quality removal d source
  obtain ⟨kind, grade, length, number, epoch, sec, ns, -⟩ := r.held_commonFields serial
  have placed := r.held_sourceFields serial
  have own := r.held_ownFields serial
  have blank := r.held_blanks serial
  refine ⟨r.length_encode serial, r.length_mod_eight, grade, length, number, epoch, sec, ns, fun other => ?_, ?_, ?_, ?_, ?_,
    ?_, ?_, ?_, ?_, ?_⟩
  · obtain ⟨-, -, -, -, th, -⟩ := placed other
    exact th
  · rintro (x : ArrivalRecord) rfl
    obtain ⟨channel, port, side, flags, -⟩ := placed rfl
    obtain ⟨reason, frame, captured, msgs, first, pubFirst, pubCount, stamp, -⟩ := own rfl
    replace channel := channel.trans (congrArg (leBytes 2) (channelField_eq_elim x.channel))
    replace side := side.trans (congrArg (leBytes 1) (lineField_eq_elim x.line))
    exact ⟨rfl, kind, rfl, ⟨channel, port, side⟩, flags, reason, frame, captured, msgs, first, pubFirst, pubCount, blank.1,
      stamp.trans (leBytes_stamp_value x.stamp), x.drop_encode serial⟩
  · rintro (x : PartnerRecord) rfl
    obtain ⟨channel, port, side, flags, -⟩ := placed rfl
    obtain ⟨winner, count, lead, first, -⟩ := own rfl
    exact ⟨rfl, kind, rfl, ⟨channel, port, side⟩, flags, winner, count, lead, first, blank.1⟩
  · rintro (x : GapRecord) rfl
    obtain ⟨channel, port, side, flags, -⟩ := placed rfl
    obtain ⟨reached, held, first, count, -⟩ := own rfl
    exact ⟨rfl, kind, rfl, ⟨channel, port, side⟩, flags, reached, blank.1, held, first, count⟩
  · rintro (x : LineMissRecord) rfl
    obtain ⟨channel, port, side, flags, -⟩ := placed rfl
    obtain ⟨other, reached, held, first, count, -⟩ := own rfl
    obtain ⟨blank27, blank42, -⟩ := blank
    rw [Line.other_code] at other
    exact ⟨rfl, kind, rfl, ⟨channel, port, side⟩, flags, other, reached, blank27, held, first, count, blank42⟩
  · rintro (x : ResyncRecord) rfl
    obtain ⟨channel, port, side, flags, -⟩ := placed rfl
    obtain ⟨direction, flushed, oldNext, newNext, -⟩ := own rfl
    rw [Direction.code_eq_ite] at direction
    exact ⟨rfl, kind, rfl, ⟨channel, port, side⟩, flags, direction, flushed, blank.1, oldNext, newNext⟩
  · rintro (x : DroppedRecord) rfl
    obtain ⟨firstEpoch, lastEpoch, th, dropped, arrivals, firstSec, firstNs, lastSec, lastNs, -⟩ := x.held_fields serial
    exact ⟨rfl, kind, rfl, firstEpoch, lastEpoch, th, blank.1, dropped, arrivals, firstSec, firstNs, lastSec, lastNs⟩
  · rintro (x : StepRecord) rfl
    obtain ⟨channel, port, side, flags, -⟩ := placed rfl
    obtain ⟨cause, oldNs, oldSec, offset, -⟩ := own rfl
    obtain ⟨blank26, blank36, -⟩ := blank
    exact ⟨rfl, kind, rfl, ⟨channel, port, side⟩, flags, cause, blank26, oldNs, oldSec, blank36, offset⟩
  · rintro (x : PortRecord) rfl
    obtain ⟨channel, port, side, flags, -⟩ := placed rfl
    obtain ⟨link, health, windowCount, -⟩ := own rfl
    obtain ⟨blank27, blank32, -⟩ := blank
    rw [linkCode_eq_ite] at link
    exact ⟨rfl, kind, rfl, ⟨channel, port, side⟩, flags, link, health, blank27, windowCount, blank32⟩
  · rintro (x : TimeRecord) rfl
    obtain ⟨channel, port, side, flags, -⟩ := placed rfl
    obtain ⟨event, state, freq, error, slew, -⟩ := own rfl
    obtain ⟨blank27, blank44, -⟩ := blank
    exact ⟨rfl, kind, rfl, ⟨channel, port, side⟩, flags, event, state, blank27, freq, error, slew, blank44⟩

end Sys2Proof.Machine
end

section
/-! SUPPORT. The queue of waiting commands across the operations of every block: no operation puts a command into it or
takes one out, resets included (logs 3, 36). -/

namespace Sys2Proof.Machine

theorem State.LaneOnly.pending {s t : State} (h : s.LaneOnly t) : t.pending = s.pending := by rw [h.eq]

/-- An operation carried out only where a condition holds. -/
theorem State.ite_pending {s t : State} {p : Prop} [Decidable p] (h : t.pending = s.pending) :
    (if p then t else s).pending = s.pending := by
  split
  · exact h
  · rfl

/-- An owner whose action leaves the queue alone. -/
theorem State.carryOut_pending {act : List Byte → State → State} (h : ∀ slot u, (act slot u).pending = u.pending)
    (code : Nat) (s : State) : (s.carryOut code act).pending = s.pending := by
  rcases s.carryOut_cases code act with e | ⟨slot, e⟩ <;> rw [e]
  exact h slot s.begun

/-- A fold of steps of which each leaves the queue alone. -/
theorem foldl_pending {α : Type} {f : State → α → State} (h : ∀ u a, (f u a).pending = u.pending) (xs : List α)
    (s : State) : (xs.foldl f s).pending = s.pending := by
  induction xs generalizing s with
  | nil => rfl
  | cons x xs ih => exact (ih _).trans (h s x)

section
variable (slot : List Byte) (s : State)

/-! ### The Timebase and the discipline -/

@[simp] theorem stepTo_pending (cause : StepCause) (total offset : Int) :
    (stepTo cause total offset s).pending = s.pending := by simp [stepTo]

theorem carrySetTime_pending : (carrySetTime slot s).pending = s.pending := by
  unfold carrySetTime
  dsimp only
  split <;> simp

theorem carryAdjustTime_pending : (carryAdjustTime slot s).pending = s.pending := by
  unfold carryAdjustTime
  dsimp only
  split
  · simp
  · split
    · simp [adjustStep, stepBy]
    · simp [adjustSlew]

theorem carrySetFrequency_pending : (carrySetFrequency slot s).pending = s.pending := rfl

theorem captureEdge_pending (within : CycleFraction) : (captureEdge within s).pending = s.pending := by
  unfold captureEdge
  split <;> simp

theorem enterHoldover_pending : (enterHoldover s).pending = s.pending := by simp [enterHoldover, State.offerTime]

theorem processEdge_pending (e : Edge) : (processEdge e s).pending = s.pending := by
  unfold processEdge
  dsimp only
  split <;> rfl

theorem takeCorrection_pending (e : Edge) (m : Measured) (c : Correction) :
    (takeCorrection e m c s).pending = s.pending := by
  have applied : (applyCorrection c s).pending = s.pending := by cases c <;> simp [applyCorrection, stepBy]
  unfold takeCorrection
  split
  · exact applied
  · rfl

@[simp] theorem completeAnswered_pending : (completeAnswered s).pending = s.pending := by
  unfold completeAnswered
  split
  · split
    · simp [completeEdge, State.offerTime]
    · rfl
    · rfl
  · rfl

theorem disableDiscipline_pending (p : DisciplineParams) : (disableDiscipline p s).pending = s.pending := by
  unfold disableDiscipline
  dsimp only
  split <;> simp [State.offerTime, State.handSlewRate]

theorem applyDiscipline_pending (p : DisciplineParams) : (applyDiscipline p s).pending = s.pending := by
  unfold applyDiscipline
  split
  · rfl
  · split
    · exact disableDiscipline_pending s p
    · rfl

theorem carryDisciplineSet_pending : (carryDisciplineSet slot s).pending = s.pending := by
  unfold carryDisciplineSet
  split
  · rfl
  · exact applyDiscipline_pending s _

/-! ### The ports -/

@[simp] theorem portNotice_pending (k : PortNo) (n : Nat) : (portNotice k n s).pending = s.pending := by
  simp [portNotice]

@[simp] theorem abortFrame_pending (k : PortNo) : (abortFrame k s).pending = s.pending := by
  unfold abortFrame
  dsimp only
  split <;> rfl

theorem changeLink_pending (k : PortNo) (link : LinkState) : (changeLink k link s).pending = s.pending := by
  unfold changeLink
  dsimp only
  split
  · rfl
  · split <;> split <;> simp

theorem latchFrame_pending (k : PortNo) (within : CycleFraction) : (latchFrame k within s).pending = s.pending :=
  State.ite_pending rfl

@[simp] theorem countError_pending (k : PortNo) : (countError k s).pending = s.pending := by
  unfold countError
  dsimp only
  split <;> simp

theorem goodFrame_pending (f : Frame) : (goodFrame f s).pending = s.pending := by
  unfold goodFrame
  dsimp only
  split
  · rfl
  · split <;> rfl

theorem badFrame_pending (f : Frame) : (badFrame f s).pending = s.pending := by
  unfold badFrame
  dsimp only
  split <;> simp

theorem checkFrame_pending (f : Frame) : (checkFrame f s).pending = s.pending := by
  unfold checkFrame
  split
  · rfl
  · split
    · rfl
    · split
      · exact goodFrame_pending s f
      · exact badFrame_pending s f

theorem endFrame_pending (k : PortNo) (bytes : List Byte) : (endFrame k bytes s).pending = s.pending := by
  unfold endFrame
  dsimp only
  split
  · exact checkFrame_pending ..
  · rfl

theorem endWindow_pending (k : PortNo) (start : Count) : (endWindow k start s).pending = s.pending := by
  unfold endWindow
  dsimp only
  split <;> simp

theorem applyPort_pending (p : PortParams) : (applyPort p s).pending = s.pending := by
  unfold applyPort
  dsimp only
  split
  · rfl
  · split
    · simp [enablePort]
    · simp [disablePort]

theorem carryPortSet_pending : (carryPortSet slot s).pending = s.pending := by
  unfold carryPortSet
  split
  · rfl
  · exact applyPort_pending s _

theorem readmit_pending (k : PortNo) : (readmit k s).pending = s.pending := by
  unfold readmit
  dsimp only
  split
  · split <;> simp
  · rfl

theorem carryPortReadmit_pending : (carryPortReadmit slot s).pending = s.pending := by
  unfold carryPortReadmit
  split
  · rfl
  · exact readmit_pending s _

/-! ### The Classifier -/

theorem handToTable_pending (f : Classified) : (handToTable f s).pending = s.pending := by
  unfold handToTable
  split <;> rfl

theorem setAsideUnmapped_pending (f : Frame) (reason : Reason) : (setAsideUnmapped f reason s).pending = s.pending := by
  unfold setAsideUnmapped
  dsimp only
  split <;> simp

theorem setAsideForeign_pending (f : Frame) (entry : MapEntry) (reason : Reason) :
    (setAsideForeign f entry reason s).pending = s.pending := by
  unfold setAsideForeign
  dsimp only
  split <;> rfl

theorem classify_pending (f : Frame) : (classify f s).pending = s.pending := by
  unfold classify
  split
  · exact setAsideUnmapped_pending ..
  · exact setAsideForeign_pending ..
  · exact handToTable_pending ..

theorem classifyHead_pending (k : PortNo) : (classifyHead k s).pending = s.pending := by
  unfold classifyHead
  dsimp only
  split
  · exact classify_pending ..
  · rfl
  · rfl

@[simp] theorem changeMaps_pending (ports : List PortNo) (change : AddressMap → AddressMap) :
    (changeMaps ports change s).pending = s.pending := by rw [changeMaps_eq]

theorem carryMapAdd_pending : (carryMapAdd slot s).pending = s.pending := by
  unfold carryMapAdd
  split
  · rfl
  · split
    · rfl
    · split <;> simp

theorem carryMapRemove_pending : (carryMapRemove slot s).pending = s.pending := by
  unfold carryMapRemove
  dsimp only
  split
  · rfl
  · split <;> simp

theorem carryPatternLoad_pending : (carryPatternLoad slot s).pending = s.pending := by
  unfold carryPatternLoad
  dsimp only
  split <;> rfl

theorem carryChannelSet_pending : (carryChannelSet slot s).pending = s.pending := by
  unfold carryChannelSet
  split
  · rfl
  · split
    · rfl
    · split <;> rfl

theorem carryChannelStart_pending : (carryChannelStart slot s).pending = s.pending := by
  unfold carryChannelStart
  split
  · rfl
  · dsimp only
    split <;> rfl

/-! ### The Arbitration Table -/

theorem takeClassified_pending (f : Classified) : (takeClassified f s).pending = s.pending := by
  unfold takeClassified
  dsimp only
  split
  · rfl
  · exact ((State.TableOnly.refl s).arbitrate f).pending

theorem refillInput_pending (k : PortNo) : (refillInput k s).pending = s.pending := by
  unfold refillInput
  split <;> rfl

theorem takeInput_pending (k : PortNo) : (takeInput k s).pending = s.pending := by
  unfold takeInput
  split
  · exact (refillInput_pending ..).trans (takeClassified_pending ..)
  · rfl

theorem takeExpiry_pending : (takeExpiry s).pending = s.pending := by
  unfold takeExpiry
  split
  · exact State.ite_pending ((State.TableOnly.refl s).removeEntry ..).pending
  · rfl

theorem carryChannelStop_pending : (carryChannelStop slot s).pending = s.pending := by
  unfold carryChannelStop
  split
  · rfl
  · split
    · exact ((State.TableOnly.refl s).stopChannel _).pending
    · rfl

/-! ### The Staging Buffer and the Lane Writers -/

theorem carryPartitionSet_pending : (carryPartitionSet slot s).pending = s.pending := by
  unfold carryPartitionSet
  dsimp only
  split
  · rfl
  · split
    · rfl
    · exact foldl_pending (fun u l => u.setStage_pending l _) _ s

@[simp] theorem endClose_pending (l : LaneNo) (o : ReqOutcome) (lost : Nat) :
    (endClose l o lost s).pending = s.pending :=
  ((State.LaneOnly.refl.closePage l .flush).announceRest l).pending

@[simp] theorem closeWithLoss_pending (l : LaneNo) : (closeWithLoss l s).pending = s.pending := by
  simp [closeWithLoss]

theorem drainEnd_pending (l : LaneNo) : (drainEnd l s).pending = s.pending := by
  have formed := (State.LaneOnly.refl (s := s)).formDropped l
  have sought := (formed.seekPage l).pending
  have written := (formed.writeNext l).pending
  unfold drainEnd
  dsimp only
  split
  · exact endClose_pending ..
  · split <;> split <;> simp [sought, written]

theorem carryLaneClose_pending : (carryLaneClose slot s).pending = s.pending := by
  unfold carryLaneClose
  split
  · dsimp only
    split
    · rfl
    · split <;> simp
    · simp
    · rfl
    · rfl
  · rfl
  · rfl

theorem carryLaneOpen_pending : (carryLaneOpen slot s).pending = s.pending := by
  unfold carryLaneOpen
  split
  · rfl
  · dsimp only
    split
    · rfl
    · split
      · rfl
      · split <;> simp

theorem pageListRead_pending (l : LaneNo) (o : Opening) (pages : List Address) :
    (pageListRead l o pages s).pending = s.pending := by
  unfold pageListRead
  dsimp only
  split <;> rfl

theorem ownerReadDone_pending (l : LaneNo) (r : ReadOp) (word : BitVec 32) :
    (ownerReadDone l r word s).pending = s.pending := by
  have noted := ((State.LaneOnly.refl (s := s)).dropRead r.tag).noteAge r
  unfold ownerReadDone
  dsimp only
  split
  · unfold ownerWordRead
    dsimp only
    split
    · exact (noted.takePage l _).pending
    · split <;> simp
  · exact (noted.seekPage l).pending

/-! ### The Request Engine -/

@[simp] theorem readSlotState_pending (scan : Scan) : (readSlotState scan s).pending = s.pending := by
  simp [readSlotState]

@[simp] theorem beginScan_pending : (beginScan s).pending = s.pending := State.ite_pending (readSlotState_pending ..)

@[simp] theorem passSlot_pending (scan : Scan) : (passSlot scan s).pending = s.pending := by
  unfold passSlot
  split <;> simp

theorem slotStateRead_pending (scan : Scan) (bytes : List Byte) : (slotStateRead scan bytes s).pending = s.pending := by
  unfold slotStateRead
  split <;> simp

theorem slotWholeRead_pending (scan : Scan) (bytes : List Byte) : (slotWholeRead scan bytes s).pending = s.pending := by
  unfold slotWholeRead
  split <;> simp [takeSlot]

theorem slotReadDone_pending (r : ReadOp) (bytes : List Byte) : (slotReadDone r bytes s).pending = s.pending := by
  unfold slotReadDone
  dsimp only
  split
  · split
    · exact slotWholeRead_pending ..
    · exact slotStateRead_pending ..
  · rfl
  · rfl

theorem completeRequest_pending (a : Answer) : (completeRequest slot a s).pending = s.pending := by
  simp [completeRequest]

theorem nudge_pending : ((List.finRange 4).foldl (fun t l => reread l t) (beginScan s)).pending = s.pending :=
  (foldl_pending (fun _ l => (State.LaneOnly.refl.reread l).pending) _ _).trans (beginScan_pending s)

/-! ### Read failure, registers, the Status Block and the snapshot -/

theorem failRead_pending (r : ReadOp) : (failRead r s).pending = s.pending := by
  unfold failRead
  split <;> rfl

theorem writeArea_pending (access : AreaWrite) : (writeArea access s).pending = s.pending := by
  have presented (v : BitVec 64) : (presentArea v s).pending = s.pending := by
    unfold presentArea
    dsimp only
    split <;> rfl
  cases access with
  | whole v => exact presented v
  | lowerHalf v => rfl
  | upperHalf v => exact presented _

theorem refreshStatus_pending : (refreshStatus s).pending = s.pending := by
  have written := (foldl_writeArea_busOnly s (statusFields s (s.bus.refreshCount + 1))).toLane.pending
  simpa only [refreshStatus] using written

theorem copyCounter_pending (c : SnapshotCopy) (name : Counter) : (copyCounter c name s).pending = s.pending := by
  have goes_on (u : State) : (afterCopy c u).pending = u.pending := by
    unfold afterCopy
    split <;> rfl
  unfold copyCounter
  dsimp only
  split <;> simp [goes_on]

theorem carrySnapshot_pending : (carrySnapshot slot s).pending = s.pending := by
  unfold carrySnapshot
  dsimp only
  split
  · split
    · rfl
    · split <;> rfl
  · rfl

end

end Sys2Proof.Machine
end

section
/-! SUPPORT. The commands and the queue: every command is answered by a next state with the queue as it was, and a step
carries out the command at the front (logs 2, 3, 37). -/

namespace Sys2Proof.Machine

/-- The outcome is a next state with the queue of s. -/
def State.QueueKept (s : State) (o : Host.Outcome State Fault Refusal) : Prop :=
  ∃ t : State, o = .next t ∧ t.pending = s.pending

theorem State.QueueKept.next {s t : State} (h : t.pending = s.pending) : s.QueueKept (.next t) := ⟨t, rfl, h⟩

/-! ### Commands that act only in some states -/

section
variable (s : State) (tag : Nat)

theorem execErrorWindowEnd_queueKept (k : PortNo) : s.QueueKept (execErrorWindowEnd k s) := by
  refine .next ?_
  split
  · exact State.ite_pending (endWindow_pending ..)
  · rfl

theorem execEdgeProcess_queueKept : s.QueueKept (execEdgeProcess s) := by
  refine .next ?_
  split
  · exact State.ite_pending (processEdge_pending ..)
  · rfl

theorem execDisciplineCorrection_queueKept : s.QueueKept (execDisciplineCorrection s) := by
  refine .next ?_
  split
  · split
    · exact takeCorrection_pending ..
    · rfl
    · rfl
  · rfl

theorem execPageListReadDone_queueKept (bytes : List Byte) : s.QueueKept (execPageListReadDone tag bytes s) := by
  refine .next ?_
  split
  · split
    · split
      · exact State.ite_pending (pageListRead_pending ..)
      · rfl
    · rfl
    · rfl
    · rfl
  · rfl

theorem execOwnerWordReadDone_queueKept (word : BitVec 32) : s.QueueKept (execOwnerWordReadDone tag word s) := by
  refine .next ?_
  split
  · split
    · split
      · rfl
      · exact ownerReadDone_pending ..
    · rfl
    · rfl
    · rfl
  · rfl

theorem execSlotReadDone_queueKept (bytes : List Byte) : s.QueueKept (execSlotReadDone tag bytes s) := by
  refine .next ?_
  split
  · exact State.ite_pending (slotReadDone_pending ..)
  · rfl

theorem execReadFailure_queueKept : s.QueueKept (execReadFailure tag s) := by
  refine .next ?_
  split
  · split
    · rfl
    · exact failRead_pending ..
  · rfl

theorem execReadLimitExpiry_queueKept : s.QueueKept (execReadLimitExpiry tag s) := by
  refine .next ?_
  split
  · exact State.ite_pending (failRead_pending ..)
  · rfl

theorem execOfferRecord_queueKept (position : Nat) : s.QueueKept (execOfferRecord position s) := by
  refine .next ?_
  split
  · exact State.ite_pending ((State.LaneOnly.refl.takeOffer _).seekPage _).pending
  · rfl

theorem execCounterCopy_queueKept : s.QueueKept (execCounterCopy s) := by
  refine .next ?_
  split
  · split
    · exact copyCounter_pending ..
    · rfl
  · rfl

theorem execBadRequest_queueKept : s.QueueKept (execBadRequest s) := by
  refine .next ?_
  split
  · split
    · rfl
    · exact completeRequest_pending ..
  · rfl

theorem execRequestComplete_queueKept : s.QueueKept (execRequestComplete s) := by
  refine .next ?_
  split
  · exact completeRequest_pending ..
  · rfl

theorem execScanTimer_queueKept : s.QueueKept (execScanTimer s) := .next (State.ite_pending (beginScan_pending _))

theorem execStatusRefresh_queueKept : s.QueueKept (execStatusRefresh s) :=
  .next (State.ite_pending (refreshStatus_pending _))

theorem execSetEnables_queueKept (v : BitVec 32) : s.QueueKept (execSetEnables v s) := by
  refine .next ?_
  split <;> rfl

/-! ### Every command -/

theorem exec_queueKept (c : Instr) : s.QueueKept (exec c s) := by
  have w := State.LaneOnly.refl (s := s)
  cases c with
  | coldReset => exact .next rfl
  | functionReset => exact .next rfl
  | oscillatorCycleEnd => exact .next rfl
  | linkChange port link => exact .next (changeLink_pending ..)
  | frameFirstByte port within => exact .next (latchFrame_pending ..)
  | endOfFrame port bytes => exact .next (endFrame_pending ..)
  | errorWindowEnd port => exact execErrorWindowEnd_queueKept s port
  | classifyFrame port => exact .next (classifyHead_pending ..)
  | tableTakeFrame port => exact .next (takeInput_pending ..)
  | expiry => exact .next (takeExpiry_pending s)
  | ppsEdge edge within => exact .next (State.ite_pending (captureEdge_pending ..))
  | edgeProcess => exact execEdgeProcess_queueKept s
  | disciplineCorrection => exact execDisciplineCorrection_queueKept s
  | edgeComplete => exact .next (completeAnswered_pending s)
  | holdoverExpiry => exact .next (State.ite_pending (enterHoldover_pending s))
  | setTime => exact .next (State.carryOut_pending carrySetTime_pending ..)
  | adjustTime => exact .next (State.carryOut_pending carryAdjustTime_pending ..)
  | setFrequency => exact .next (State.carryOut_pending carrySetFrequency_pending ..)
  | disciplineSet => exact .next (State.carryOut_pending carryDisciplineSet_pending ..)
  | portSet => exact .next (State.carryOut_pending carryPortSet_pending ..)
  | portReadmit => exact .next (State.carryOut_pending carryPortReadmit_pending ..)
  | mapAdd => exact .next (State.carryOut_pending carryMapAdd_pending ..)
  | mapRemove => exact .next (State.carryOut_pending carryMapRemove_pending ..)
  | patternLoad => exact .next (State.carryOut_pending carryPatternLoad_pending ..)
  | channelSet => exact .next (State.carryOut_pending carryChannelSet_pending ..)
  | channelStart => exact .next (State.carryOut_pending carryChannelStart_pending ..)
  | channelStop => exact .next (State.carryOut_pending carryChannelStop_pending ..)
  | laneOpen => exact .next (State.carryOut_pending carryLaneOpen_pending ..)
  | pageListReadDone read bytes => exact execPageListReadDone_queueKept s read bytes
  | laneClose => exact .next (State.carryOut_pending carryLaneClose_pending ..)
  | closeDrainEnd lane => exact .next (State.ite_pending (drainEnd_pending s lane))
  | partitionSet => exact .next (State.carryOut_pending carryPartitionSet_pending ..)
  | countersSnapshot => exact .next (State.carryOut_pending carrySnapshot_pending ..)
  | counterCopy => exact execCounterCopy_queueKept s
  | badRequest => exact execBadRequest_queueKept s
  | scanTimer => exact execScanTimer_queueKept s
  | nudge => exact .next (nudge_pending s)
  | slotReadDone read bytes => exact execSlotReadDone_queueKept s read bytes
  | requestComplete => exact execRequestComplete_queueKept s
  | areaBaseWrite access => exact .next (writeArea_pending s access)
  | setEnables value => exact execSetEnables_queueKept s value
  | causeRead => exact .next rfl
  | ignoredRegisterWrite offset value => exact .next rfl
  | statusRefresh => exact execStatusRefresh_queueKept s
  | readFailure read => exact execReadFailure_queueKept s read
  | readLimitExpiry read => exact execReadLimitExpiry_queueKept s read
  | offerRecord position => exact execOfferRecord_queueKept s position
  | ownerWordReadDone read word => exact execOwnerWordReadDone_queueKept s read word
  | starvedReread lane => exact .next (State.ite_pending (w.reread lane).pending)
  | writeRecord lane => exact .next (State.ite_pending (w.writeNext lane).pending)
  | lingerExpiry lane => exact .next (State.ite_pending (w.lingerEnd lane).pending)
  | holdoffExpiry lane => exact .next (State.ite_pending (w.holdoffEnd lane).pending)

end

/-- Settles O2: command by command, the operations of each block leave the queue alone. -/
theorem everyCommandAnswersNext : Obligations.EveryCommandAnswersNext := fun c s => exec_queueKept s c

/-! ### A step -/

/-- A step carries out the command at the front of the queue with the queue's rest (log 3). -/
theorem step_cons (c : Instr) (rest : List Instr) (s : State) :
    step { s with pending := c :: rest } = exec c { s with pending := rest } := rfl

/-- On an empty queue the part idles (log 3). -/
theorem step_nil {s : State} (h : s.pending = []) : step s = .next s := by simp only [step, h]

/-- Settles O1: the two cases of a step. -/
theorem stepTakesFrontOfQueueOrIdles : Obligations.StepTakesFrontOfQueueOrIdles := ⟨step_cons, fun _ => step_nil⟩

end Sys2Proof.Machine
end
